-- ==== Sys2Proof/Word.lean ====
section
/-! DEFINITION. The word and byte types of the Tympan STFT core (spec/00_scope.md R6, R9). -/

namespace Sys2Proof

/-- Every register, sample and spectrum word is 32 bits wide (R6). -/
abbrev Word := BitVec 32

/-- A byte lane of a word (spec/20_memory.md R37). -/
abbrev Byte := BitVec 8

end Sys2Proof
end

