-- ==== Sys2Proof/Syntax.lean ====
section
/-! DEFINITION. The ten commands of spec/30_encoding.md R53 and their operand types. -/

namespace Sys2Proof

/-- The direction of a transform: DIR = 0 is forward, DIR = 1 is inverse (R51). -/
inductive Dir where
  | forward
  | inverse
deriving DecidableEq, Repr

/-- The two window kinds that exist (spec/10_state.md R26): 0 = Rectangular, 1 = Hann. -/
inductive WinKind where
  | rect
  | hann
deriving DecidableEq, Repr

/-- One constructor per row of spec/opcode_table.json. -/
inductive Instr where
  /-- NOP (R87). -/
  | nop
  /-- CONFIGURE (R85). -/
  | configure
  /-- SET_WINDOW (R70): `kind` is the whole two-bit field KIND, of which 2 and 3 are reserved (R51). -/
  | setWindow (dir : Dir) (kind : BitVec 2)
  /-- ENABLE (R88): `en` is the field EN. -/
  | enable (en : Bool)
  /-- ANALYZE (R72). -/
  | analyze
  /-- REBUILD (R77). -/
  | rebuild
  /-- SYNTHESIZE (R81). -/
  | synthesize
  /-- UPDATE (R90). -/
  | update
  /-- XFORM_FWD (R68). -/
  | xformFwd
  /-- XFORM_INV (R69). -/
  | xformInv
deriving DecidableEq, Repr

end Sys2Proof
end

