-- ==== Sys2Proof/WellFormed.lean ====
section
/-! DEFINITION. Which commands have an encoding (spec/30_encoding.md R54, R55). -/

namespace Sys2Proof

/-- The only operand value no encoding admits is a reserved KIND, 2 or 3, of SET_WINDOW (R55). -/
def Instr.wellFormed : Instr → Bool
  | .nop => true
  | .configure => true
  | .setWindow _ kind => decide (kind.toNat < 2)
  | .enable _ => true
  | .analyze => true
  | .rebuild => true
  | .synthesize => true
  | .update => true
  | .xformFwd => true
  | .xformInv => true

end Sys2Proof
end

