-- ==== Sys2Proof/Decode.lean ====
section
/-! DEFINITION. Decoding and encoding of command words (spec/30_encoding.md R51 to R56). -/

namespace Sys2Proof

/-- OPC = w[7:0] (R51). -/
def fieldOpc (w : Word) : BitVec 8 := w.extractLsb' 0 8

/-- A = w[8] (R52). -/
def fieldA (w : Word) : Bool := w.getLsbD 8

/-- KIND = w[10:9] (R52). -/
def fieldKind (w : Word) : BitVec 2 := w.extractLsb' 9 2

/-- w[31:11], reserved, must be 0 (R51). -/
def fieldReserved (w : Word) : BitVec 21 := w.extractLsb' 11 21

/-- DIR = 0 is forward, DIR = 1 is inverse (R51). -/
def dirOfBit : Bool → Dir
  | false => .forward
  | true => .inverse

/-- The bit that encodes a direction (R51). -/
def bitOfDir : Dir → Bool
  | .forward => false
  | .inverse => true

/-- A command without operands is legal only with A = 0 and KIND = 0 (R54). -/
def plainCommand (i : Instr) (a : Bool) (kind : BitVec 2) : Option Instr :=
  if a = false ∧ kind = 0 then some i else none

/-- The decoder of R54, total on every 32-bit word; `none` is BAD (R55). -/
def decode (w : Word) : Option Instr :=
  if fieldReserved w ≠ 0 then none
  else
    match (fieldOpc w).toNat with
    | 0x00 => plainCommand .nop (fieldA w) (fieldKind w)
    | 0x01 => plainCommand .configure (fieldA w) (fieldKind w)
    | 0x02 =>
      if (fieldKind w).toNat < 2 then some (.setWindow (dirOfBit (fieldA w)) (fieldKind w)) else none
    | 0x03 => if fieldKind w = 0 then some (.enable (fieldA w)) else none
    | 0x10 => plainCommand .analyze (fieldA w) (fieldKind w)
    | 0x11 => plainCommand .rebuild (fieldA w) (fieldKind w)
    | 0x12 => plainCommand .synthesize (fieldA w) (fieldKind w)
    | 0x13 => plainCommand .update (fieldA w) (fieldKind w)
    | 0x20 => plainCommand .xformFwd (fieldA w) (fieldKind w)
    | 0x21 => plainCommand .xformInv (fieldA w) (fieldKind w)
    | _ => none

/-- One word of format C, from its fields (R51). -/
def formatC (opc : BitVec 8) (a : Bool) (kind : BitVec 2) : Word :=
  (0#21 ++ kind ++ BitVec.ofBool a ++ opc : BitVec 32)

/-- The command word of a command (R53, R57). -/
def encode : Instr → Word
  | .nop => formatC 0x00 false 0
  | .configure => formatC 0x01 false 0
  | .setWindow dir kind => formatC 0x02 (bitOfDir dir) kind
  | .enable en => formatC 0x03 en 0
  | .analyze => formatC 0x10 false 0
  | .rebuild => formatC 0x11 false 0
  | .synthesize => formatC 0x12 false 0
  | .update => formatC 0x13 false 0
  | .xformFwd => formatC 0x20 false 0
  | .xformInv => formatC 0x21 false 0

/-- The row of the match and mask table of R54 that a command belongs to. -/
structure OpcodeRow where
  matchWord : Word
  maskWord : Word
deriving DecidableEq, Repr

/-- The match and mask table of R54, in the order of spec/opcode_table.json. -/
def opcodeRows : List OpcodeRow :=
  [⟨0x00000000, 0xFFFFFFFF⟩, ⟨0x00000001, 0xFFFFFFFF⟩, ⟨0x00000002, 0xFFFFFCFF⟩,
   ⟨0x00000003, 0xFFFFFEFF⟩, ⟨0x00000010, 0xFFFFFFFF⟩, ⟨0x00000011, 0xFFFFFFFF⟩,
   ⟨0x00000012, 0xFFFFFFFF⟩, ⟨0x00000013, 0xFFFFFFFF⟩, ⟨0x00000020, 0xFFFFFFFF⟩,
   ⟨0x00000021, 0xFFFFFFFF⟩]

/-- A row selects a word when the word's masked bits are the row's (R54). -/
def OpcodeRow.selects (r : OpcodeRow) (w : Word) : Bool := w &&& r.maskWord == r.matchWord

/-- The index of a command's row in `opcodeRows` (R53, R54). -/
def rowIndex : Instr → Nat
  | .nop => 0
  | .configure => 1
  | .setWindow _ _ => 2
  | .enable _ => 3
  | .analyze => 4
  | .rebuild => 5
  | .synthesize => 6
  | .update => 7
  | .xformFwd => 8
  | .xformInv => 9

/-- The word that the low `nbits` bits of `w` make: a command is exactly one 32-bit word (R51, R56). -/
def tableWord (nbits w : Nat) : Word := BitVec.ofNat 32 (w % 2 ^ nbits)

/-- The command the decoder reads from a word of the opcode table. -/
def decodeTableWord (nbits w : Nat) : Option Instr := decode (tableWord nbits w)

end Sys2Proof
end

