-- ==== Sys2Proof/Machine/Memory.lean ====
section
/-! DEFINITION. Byte memories in one canonical form, and their words (spec/20_memory.md R37). A buffer of the
core is one memory: word `i` is the four bytes at local addresses `4*i` to `4*i+3` (log entry 19). -/

namespace Sys2Proof.Machine

/-- Address and byte pairs, addresses strictly rising, no entry equal to what an unlisted address reads as. -/
abbrev Memory := List Host.Cell

/-- What an unlisted address reads as: zero (DESIGN CHOICE, unsafe at State.reset only: R115 leaves the contents
open, log entry 11). -/
def Memory.unlisted (_address : Nat) : Byte := 0

/-- The canonical form. -/
abbrev Memory.wf (m : Memory) : Prop :=
  m.Pairwise (fun c d => c.1 < d.1) ∧ ∀ c ∈ m, c.2 ≠ Memory.unlisted c.1

/-- Every listed address lies below `size`. -/
abbrev Memory.within (m : Memory) (size : Nat) : Prop := ∀ c ∈ m, c.1 < size

/-- Read one byte. -/
def Memory.getByte : Memory → Nat → Byte
  | [], a => Memory.unlisted a
  | c :: m, a => if c.1 = a then c.2 else Memory.getByte m a

/-- Insert a cell before the first greater address. -/
def Memory.insertCell (c : Host.Cell) : Memory → Memory
  | [] => [c]
  | d :: m => if c.1 < d.1 then c :: d :: m else d :: Memory.insertCell c m

/-- Write one byte; writing what an unlisted address reads as removes the entry. -/
def Memory.setByte (m : Memory) (a : Nat) (b : Byte) : Memory :=
  let rest := m.filter fun c => c.1 != a
  if b = Memory.unlisted a then rest else Memory.insertCell (a, b) rest

/-- Byte lane `b` of a word is its bits [8b+7:8b] (R37). -/
def byteLane (w : Word) (b : Nat) : Byte := w.extractLsb' (8 * b) 8

/-- Read word `i`: little-endian byte lanes (R37). -/
def Memory.getWord (m : Memory) (i : Nat) : Word :=
  m.getByte (4 * i + 3) ++ m.getByte (4 * i + 2) ++ m.getByte (4 * i + 1) ++ m.getByte (4 * i)

/-- Write word `i`: little-endian byte lanes (R37). -/
def Memory.setWord (m : Memory) (i : Nat) (w : Word) : Memory :=
  (((m.setByte (4 * i) (byteLane w 0)).setByte (4 * i + 1) (byteLane w 1)).setByte
    (4 * i + 2) (byteLane w 2)).setByte (4 * i + 3) (byteLane w 3)

/-- The `n` words from word `i` on. -/
def Memory.readWords (m : Memory) (i n : Nat) : List Word :=
  (List.range n).map fun j => m.getWord (i + j)

/-- Write consecutive words from word `i` on. -/
def Memory.writeWords : Memory → Nat → List Word → Memory
  | m, _, [] => m
  | m, i, w :: ws => Memory.writeWords (m.setWord i w) (i + 1) ws

/-- A memory whose every word is `+0.0`. -/
def Memory.zeroed : Memory := []

end Sys2Proof.Machine
end

