-- ==== Sys2Proof/Machine/State.lean ====
section
/-! DEFINITION. The state of the core, as plain data, and the state after reset (spec/10_state.md,
spec/70_reset_and_hazards.md R114, R115). -/

namespace Sys2Proof.Machine

/-- The sequencer phase (R18). -/
inductive Phase where
  | idle
  | hook
deriving DecidableEq, Repr

/-- The codes of REG.ERR.CODE (spec/60_exceptions.md R100); codes 6 to 255 are never written. -/
inductive ErrCode where
  | none
  | sizeUnsupported
  | notConfigured
  | allocationFailure
  | badCommand
  | sequence
deriving DecidableEq, Repr

/-- One access of the host bus, at a byte address of the host's address space, of `size` bytes
(spec/20_memory.md R38). -/
inductive Access where
  | read (address size : Nat)
  | write (address size : Nat) (value : Word)
deriving DecidableEq, Repr

/-- What can happen next (log entry 1). -/
inductive Event where
  /-- The host accesses the bus. -/
  | host (a : Access)
  /-- The core completes the command in progress (log entry 2). -/
  | core
  /-- The platform drives the reset input (R114). -/
  | resetInput (asserted : Bool)
  /-- The environment drives `out_alloc_ok` (R82). -/
  | outAlloc (ok : Bool)
deriving DecidableEq, Repr

/-- What the bus answered to the last host access. -/
inductive Response where
  | none
  /-- A write was accepted. -/
  | written
  /-- A read returned a word. -/
  | data (w : Word)
  /-- A read ended in a bus error; its data is unspecified (R39). -/
  | readError (w : Word)
  /-- A write ended in a bus error (R39). -/
  | writeError
deriving DecidableEq, Repr

/-- Everything the spec gives the machine (INVENTORY.md, State), and the model's own fields. -/
structure State where
  /-- R18. -/
  phase : Phase
  /-- R19. -/
  busy : Bool
  /-- The model's: the word of the command in progress while `busy` (log entry 15). -/
  command : Word
  /-- R20. -/
  configured : Bool
  /-- R20. -/
  enable : Bool
  /-- REG.STATUS.OUT_VALID, R22, R91. -/
  outValid : Bool
  /-- REG.STATUS.DROP, R22. -/
  drop : Bool
  /-- REG.ERR.CODE, R23. -/
  err : ErrCode
  /-- REG.REQ_FS, R24. -/
  reqFs : Word
  /-- REG.REQ_N, R24. -/
  reqN : Word
  /-- REG.REQ_B, R24. -/
  reqB : Word
  /-- REG.CFG_N, R25. -/
  cfgN : Word
  /-- REG.CFG_B, R25. -/
  cfgB : Word
  /-- REG.CFG_FS, R25. -/
  cfgFs : Word
  /-- REG.WIN.FWD_KIND, R26. -/
  fwdKind : WinKind
  /-- REG.WIN.INV_KIND, R26. -/
  invKind : WinKind
  /-- REG.DROP_COUNT, R27. -/
  dropCount : Word
  /-- SPEC, R29. -/
  specBuf : Memory
  /-- IN, R30. -/
  inBuf : Memory
  /-- OUT, R30. -/
  outBuf : Memory
  /-- hist, R31. -/
  histBuf : Memory
  /-- acc, R32. -/
  accBuf : Memory
  /-- The level of the reset input, R114. -/
  inReset : Bool
  /-- The level of the environment input `out_alloc_ok`, R82 (log entry 14). -/
  outAllocOk : Bool
  /-- The model's: what happens next, the first event first (log entry 1). -/
  agenda : List Event
  /-- The model's: the bus's answer to the last host access. -/
  response : Response
  /-- The model's: how many free values have been drawn (log entries 4, 12, 13). -/
  freeCount : Nat
deriving DecidableEq, Repr

/-- Why the machine stops with a fault. -/
inductive Fault where
  /-- Raised by a host access at an address outside the window, which the core does not decode
  (spec/20_memory.md R36). Safe: nothing is claimed of an access that is not the core's (log entry 5). -/
  | outsideWindow
deriving DecidableEq, Repr

/-- Why a step has no meaning. -/
inductive Refusal where
  /-- Raised by no arm of this model: every command has its meaning. Safe. -/
  | notModelled (mnemonic : String)
  /-- Raised by a host access other than a read of REG.STATUS while `busy` is 1, which the spec leaves undefined
  (spec/70_reset_and_hazards.md R117). Safe: the model stops (log entry 3). -/
  | busyAccess
deriving DecidableEq, Repr

/-- The machine right after reset (R114). The buffers, which R115 leaves unspecified, list nothing and read zero
(DESIGN CHOICE, log entry 11); the model's own fields are empty (log entries 14, 15). -/
def State.reset : State where
  phase := .idle
  busy := false
  command := 0
  configured := false
  enable := true
  outValid := false
  drop := false
  err := .none
  reqFs := 0
  reqN := 0
  reqB := 0
  cfgN := 0
  cfgB := 0
  cfgFs := 0
  fwdKind := .hann
  invKind := .rect
  dropCount := 0
  specBuf := []
  inBuf := []
  outBuf := []
  histBuf := []
  accBuf := []
  inReset := false
  outAllocOk := true
  agenda := []
  response := .none
  freeCount := 0

end Sys2Proof.Machine
end

