-- ==== Sys2Proof/Machine/Operands.lean ====
section
/-! DEFINITION. The operands of commands and of host accesses: configuration values, buffer words, window kinds,
size validation, and the address map (spec/10_state.md, spec/20_memory.md R36, spec/30_encoding.md R52,
spec/44_stage_control.md R84). -/

namespace Sys2Proof.Machine

/-- `N`, the transform length REG.CFG_N (R25). -/
def State.transformLen (s : State) : Nat := s.cfgN.toNat

/-- `B`, the block size REG.CFG_B (R25). -/
def State.blockLen (s : State) : Nat := s.cfgB.toNat

/-- `SPEC[i]` (R29). -/
def State.specWord (s : State) (i : Nat) : Word := s.specBuf.getWord i

/-- `IN[i]` (R30). -/
def State.inWord (s : State) (i : Nat) : Word := s.inBuf.getWord i

/-- `OUT[i]` (R30). -/
def State.outWord (s : State) (i : Nat) : Word := s.outBuf.getWord i

/-- `hist[i]` (R31). -/
def State.histWord (s : State) (i : Nat) : Word := s.histBuf.getWord i

/-- `acc[i]` (R32). -/
def State.accWord (s : State) (i : Nat) : Word := s.accBuf.getWord i

/-- `active = configured AND enable` (R20). -/
def State.active (s : State) : Bool := s.configured && s.enable

/-- The kind that a field KIND names; 2 and 3 are reserved (R51). -/
def kindOfField (k : BitVec 2) : Option WinKind :=
  if k = 0 then some .rect else if k = 1 then some .hann else none

/-- The encoding of a kind, in KIND and in REG.WIN (R26, R51). -/
def fieldOfKind : WinKind → BitVec 2
  | .rect => 0
  | .hann => 1

/-- The supported transform lengths (R84). -/
def supportedLengths : List Nat := [16, 32, 64, 128, 256, 512, 1024, 2048, 4096]

/-- `valid_size(n, b)` on the unsigned request values (R84). -/
def validSize (n b : Word) : Bool :=
  supportedLengths.contains n.toNat && decide (1 ≤ b.toNat) && decide (b.toNat ≤ n.toNat) &&
    decide (n.toNat % b.toNat = 0)

/-- NMAX and BMAX (R6). -/
def maxLen : Nat := 4096

/-- The size in bytes of SPEC: 2*NMAX words (R6, R29). -/
def specBytes : Nat := 4 * (2 * maxLen)

/-- The size in bytes of IN, OUT, hist and acc: 4096 words each (R6, R30 to R32). -/
def blockBytes : Nat := 4 * maxLen

/-- The control and status registers of the map R36. -/
inductive Register where
  | cmd
  | status
  | err
  | reqFs
  | reqN
  | reqB
  | cfgN
  | cfgB
  | cfgFs
  | win
  | dropCount
deriving DecidableEq, Repr

/-- What an offset of the window names (R36). -/
inductive Location where
  | register (r : Register)
  | inWord (i : Nat)
  | outWord (i : Nat)
  | specWord (i : Nat)
  | reserved
deriving DecidableEq, Repr

/-- The register at a word offset below 0x4000, if there is one (R28, R36). -/
def registerAt : Nat → Option Register
  | 0x00 => some .cmd
  | 0x04 => some .status
  | 0x08 => some .err
  | 0x0C => some .reqFs
  | 0x10 => some .reqN
  | 0x14 => some .reqB
  | 0x18 => some .cfgN
  | 0x1C => some .cfgB
  | 0x20 => some .cfgFs
  | 0x24 => some .win
  | 0x28 => some .dropCount
  | _ => none

/-- The map of R36, for a byte offset that is a multiple of 4 below 0x18000. -/
def locate (off : Nat) : Location :=
  if off < 0x4000 then
    match registerAt off with
    | some r => .register r
    | none => .reserved
  else if off < 0x8000 then .inWord ((off - 0x4000) / 4)
  else if off < 0xC000 then .outWord ((off - 0x8000) / 4)
  else if off < 0x10000 then .reserved
  else .specWord ((off - 0x10000) / 4)

/-- The size of the window in bytes (R35). -/
def windowBytes : Nat := 0x18000

end Sys2Proof.Machine
end

