-- ==== Sys2Proof/Machine/Flags.lean ====
section
/-! DEFINITION. The words that are computed from flags: REG.STATUS, REG.ERR and REG.WIN (spec/10_state.md R22, R23,
R26; spec/60_exceptions.md R100). -/

namespace Sys2Proof.Machine

/-- The number of a code (R100). -/
def ErrCode.toByte : ErrCode → Byte
  | .none => 0
  | .sizeUnsupported => 1
  | .notConfigured => 2
  | .allocationFailure => 3
  | .badCommand => 4
  | .sequence => 5

/-- REG.ERR: CODE in bits 7:0, the rest 0 (R23). -/
def State.errWord (s : State) : Word := 0#24 ++ s.err.toByte

/-- REG.STATUS: BUSY 0, CONFIGURED 1, ENABLE 2, HOOK 3, ACTIVE 4, DROP 5, OUT_VALID 6, the rest 0 (R22). -/
def State.statusWord (s : State) : Word :=
  0#25 ++ BitVec.ofBool s.outValid ++ BitVec.ofBool s.drop ++ BitVec.ofBool s.active ++
    BitVec.ofBool (decide (s.phase = .hook)) ++ BitVec.ofBool s.enable ++ BitVec.ofBool s.configured ++
    BitVec.ofBool s.busy

/-- REG.WIN: FWD_KIND in bits 1:0, INV_KIND in bits 3:2, the rest 0 (R26). -/
def State.winWord (s : State) : Word := 0#28 ++ fieldOfKind s.invKind ++ fieldOfKind s.fwdKind

end Sys2Proof.Machine
end

