-- ==== Sys2Proof/Machine/Binary32.lean ====
section
/-! DEFINITION. IEEE 754 binary32 values and rounding (spec/00_scope.md R11, spec/20_memory.md R37).
PRESUMED from the IEEE 754 standard, as the spec itself says (log entry 9). -/

namespace Sys2Proof.Machine

/-- The sign, bit 31 (R37). -/
def fpSign (w : Word) : Bool := w.getLsbD 31

/-- The exponent field, bits 30:23 (R37). -/
def fpExp (w : Word) : Nat := (w.extractLsb' 23 8).toNat

/-- The fraction field, bits 22:0 (R37). -/
def fpFrac (w : Word) : Nat := (w.extractLsb' 0 23).toNat

def fpIsNaN (w : Word) : Bool := fpExp w == 255 && fpFrac w != 0

def fpIsInf (w : Word) : Bool := fpExp w == 255 && fpFrac w == 0

def fpIsFinite (w : Word) : Bool := fpExp w != 255

/-- `+0.0` or `-0.0`. -/
def fpIsZero (w : Word) : Bool := fpExp w == 0 && fpFrac w == 0

/-- The magnitude of a finite word as a whole number of units of 2^-149, the smallest subnormal. -/
def fpMag (w : Word) : Nat :=
  if fpExp w = 0 then fpFrac w else (2 ^ 23 + fpFrac w) * 2 ^ (fpExp w - 1)

/-- The signed value of a finite word in units of 2^-149. -/
def fpUnits (w : Word) : Int := if fpSign w then -(fpMag w : Int) else (fpMag w : Int)

/-- The real value of a finite word, `val` of R11; a rational number. -/
def fpVal (w : Word) : ℚ := (fpUnits w : ℚ) / 2 ^ 149

/-- Divide by 2^sh and round to nearest, ties to even. -/
def roundShift (m sh : Nat) : Nat :=
  let q := m / 2 ^ sh
  let r := m % 2 ^ sh
  if 2 ^ sh < 2 * r ∨ (2 * r = 2 ^ sh ∧ q % 2 = 1) then q + 1 else q

/-- How many low bits of a magnitude of `m` units of 2^-(149+k) are rounded away: all but 24 significant
bits, and never fewer than the `k` that lie below the smallest subnormal. -/
def roundingShift (m k : Nat) : Nat := max (m.log2 + 1 - 24) k

/-- The exponent and fraction fields of an infinity. -/
def fpInfBits : Nat := 0x7F800000

/-- The exponent and fraction fields (bits 30:0) of `m * 2^-(149+k)` rounded to the nearest binary32, ties to
even, subnormals kept, infinity on overflow (R11). The significand `q` counts units of 2^(sh-k-149), so that
adding it to the exponent's multiple of 2^23 carries into the exponent by itself. -/
def roundMag (m k : Nat) : Nat :=
  let sh := roundingShift m k
  min ((sh - k) * 2 ^ 23 + roundShift m sh) fpInfBits

/-- A word from its sign and its bits 30:0. -/
def fpPack (sign : Bool) (bits : Nat) : Word :=
  BitVec.ofNat 32 ((if sign then 0x80000000 else 0) + bits)

/-- `+0.0` (R11). -/
def fpZero : Word := 0x00000000

/-- `1.0` (R11). -/
def fpOne : Word := 0x3F800000

/-- `fneg32` flips bit 31 and changes no other bit (R11). -/
def fneg32 (w : Word) : Word := w ^^^ 0x80000000

/-- `f32(r)` of R11 as a relation: `w` is the finite binary32 word whose value is nearest the real `r`, and of
two words equally near the one with the even significand. -/
def IsNearestBinary32 (r : ℝ) (w : Word) : Prop :=
  fpIsFinite w = true ∧
  ∀ v : Word, fpIsFinite v = true →
    |((fpVal w : ℚ) : ℝ) - r| ≤ |((fpVal v : ℚ) : ℝ) - r| ∧
    (|((fpVal w : ℚ) : ℝ) - r| = |((fpVal v : ℚ) : ℝ) - r| → fpVal v ≠ fpVal w → w.getLsbD 0 = false)

end Sys2Proof.Machine
end

