-- ==== Sys2Proof/Machine/Dft.lean ====
section
/-! DEFINITION. The exact transforms of spec/40_transform.md R62 and R63, over the complex numbers. They say what
the parameter FFT_F32 approximates (R64); the step function never computes them. -/

namespace Sys2Proof.Machine

/-- The complex value of bin (or sample) `n` of an interleaved list of words (spec/00_scope.md R12). -/
noncomputable def binValue (ws : List Word) (n : Nat) : ℂ :=
  ⟨((fpVal (ws.getD (2 * n) 0) : ℚ) : ℝ), ((fpVal (ws.getD (2 * n + 1) 0) : ℚ) : ℝ)⟩

/-- `exp(-j*2*pi*k*n/N)` for the forward direction, `exp(+j*2*pi*k*n/N)` for the inverse (R62, R63). -/
noncomputable def twiddle (d : Dir) (N k n : Nat) : ℂ :=
  match d with
  | .forward => Complex.exp (-(2 * (Real.pi : ℂ) * Complex.I * ((k : ℂ) * (n : ℂ) / (N : ℂ))))
  | .inverse => Complex.exp (2 * (Real.pi : ℂ) * Complex.I * ((k : ℂ) * (n : ℂ) / (N : ℂ)))

/-- No factor forward, `1/N` inverse (R62, R63). -/
noncomputable def dftScale (d : Dir) (N : Nat) : ℝ :=
  match d with
  | .forward => 1
  | .inverse => 1 / (N : ℝ)

/-- The exact transform of length `N` of `z`, at index `k` (R62 forward, R63 inverse). -/
noncomputable def exactDft (d : Dir) (N : Nat) (z : Nat → ℂ) (k : Nat) : ℂ :=
  (dftScale d N : ℂ) * ∑ n ∈ Finset.range N, z n * twiddle d N k n

/-- `S` of R64: `sum_n |z[n]|` forward, `(1/N) * sum_k |Z[k]|` inverse. -/
noncomputable def dftMass (d : Dir) (N : Nat) (z : Nat → ℂ) : ℝ :=
  dftScale d N * ∑ n ∈ Finset.range N, ‖z n‖

/-- Accuracy of R64 (2), for one input: every output word is finite and within `eps * S` of the real or
imaginary part of the exact result. -/
def WithinBound (eps : ℚ) (d : Dir) (N : Nat) (input output : List Word) : Prop :=
  ∀ k < N,
    fpIsFinite (output.getD (2 * k) 0) = true ∧ fpIsFinite (output.getD (2 * k + 1) 0) = true ∧
    |(binValue output k).re - (exactDft d N (binValue input) k).re| ≤ (eps : ℝ) * dftMass d N (binValue input) ∧
    |(binValue output k).im - (exactDft d N (binValue input) k).im| ≤ (eps : ℝ) * dftMass d N (binValue input)

/-- The words of R64 (3): `+0.0` or `-0.0`. -/
def IsZeroWord (w : Word) : Prop := w = 0x00000000 ∨ w = 0x80000000

/-- The exact Hann coefficient `0.5*(1-cos(2*pi*i/N))` of R59, a real number. -/
noncomputable def exactHann (N i : Nat) : ℝ :=
  1 / 2 * (1 - Real.cos (2 * Real.pi * ((i : ℝ) / (N : ℝ))))

end Sys2Proof.Machine
end

