-- ==== Sys2Proof/Config.lean ====
section
/-! DEFINITION. What an implementation fixes and what the spec leaves open: the parameters of
spec/00_scope.md R8 and the free values. No constant here has a body, so no proof can see its value. -/

namespace Sys2Proof.Config

open Sys2Proof.Machine

/-- A free choice of an element of a type that is known to have one. -/
opaque pick (α : Type) [Inhabited α] : α

/-- A realisation of FFT_F32 with its bound EPS_FFT: exactly what spec/40_transform.md R64 lets a model assume
(log entry 7). Determinism (1) is that `run` is a function. -/
structure FftUnit where
  /-- EPS_FFT, as a rational upper bound. -/
  eps : ℚ
  /-- `(dir, N, words[2N]) -> words[2N]`. -/
  run : Dir → Nat → List Word → List Word
  eps_nonneg : 0 ≤ eps
  /-- It returns 2N words. -/
  length_run : ∀ d N ws, (run d N ws).length = 2 * N
  /-- Accuracy, R64 (2). -/
  accurate : ∀ d N ws, 0 < N → ws.length = 2 * N → (∀ w ∈ ws, fpIsFinite w = true) →
    WithinBound eps d N ws (run d N ws)
  /-- Zero, R64 (3). -/
  zeros : ∀ d N ws, ws.length = 2 * N → (∀ w ∈ ws, IsZeroWord w) → ∀ w ∈ run d N ws, IsZeroWord w

theorem norm_twiddle (d : Dir) (N k n : Nat) : ‖twiddle d N k n‖ = 1 := by
  have h : ∀ x : ℝ, ‖Complex.exp ((x : ℂ) * Complex.I)‖ = 1 := Complex.norm_exp_ofReal_mul_I
  cases d
  · have := h (-(2 * Real.pi * ((k : ℝ) * n / N)))
    rw [← this, twiddle]
    push_cast
    ring_nf
  · have := h (2 * Real.pi * ((k : ℝ) * n / N))
    rw [← this, twiddle]
    push_cast
    ring_nf

theorem dftScale_nonneg (d : Dir) (N : Nat) : 0 ≤ dftScale d N := by
  cases d <;> simp [dftScale]

/-- No part of an exact result exceeds `S`. -/
theorem norm_exactDft_le (d : Dir) (N : Nat) (z : Nat → ℂ) (k : Nat) :
    ‖exactDft d N z k‖ ≤ dftMass d N z := by
  unfold exactDft dftMass
  rw [norm_mul, Complex.norm_real, Real.norm_of_nonneg (dftScale_nonneg d N)]
  refine mul_le_mul_of_nonneg_left ((norm_sum_le _ _).trans (le_of_eq ?_)) (dftScale_nonneg d N)
  exact Finset.sum_congr rfl fun n _ => by rw [norm_mul, norm_twiddle, mul_one]

theorem getD_replicate_zero (n i : Nat) : (List.replicate n (0 : Word)).getD i 0 = 0 := by
  simp [List.getD_eq_getElem?_getD, List.getElem?_replicate]
  split <;> rfl

/-- R64 can be met: a unit that answers zeros meets it with the bound 1. It stands here only to show that
`FftUnit` is not empty. -/
def FftUnit.silent : FftUnit where
  eps := 1
  run _ N _ := List.replicate (2 * N) 0
  eps_nonneg := by norm_num
  length_run _ _ _ := by simp
  accurate d N ws _ _ _ k _ := by
    have hz : binValue (List.replicate (2 * N) (0 : Word)) k = 0 := by
      have h0 : fpVal 0 = 0 := by decide +kernel
      unfold binValue
      rw [getD_replicate_zero, getD_replicate_zero, h0]
      apply Complex.ext <;> simp
    have hb := norm_exactDft_le d N (binValue ws) k
    rw [getD_replicate_zero, getD_replicate_zero, hz]
    refine ⟨by decide, by decide, ?_, ?_⟩
    · simpa using (Complex.abs_re_le_norm _).trans hb
    · simpa using (Complex.abs_im_le_norm _).trans hb
  zeros _ N _ _ _ w hw := by
    rw [List.eq_of_mem_replicate hw]
    exact Or.inl rfl

/-- FFT_F32 and EPS_FFT of this machine (R8, R64). -/
def fft : FftUnit := @pick FftUnit ⟨FftUnit.silent⟩

/-- BASE is a multiple of 0x20000 (spec/20_memory.md R35); which one is the platform's (log entry 6). -/
opaque baseIndex : Nat

/-- BASE, the byte address of the window (R35). -/
def base : Nat := 0x20000 * baseIndex

/-- The two operations whose NaN results are the parameter NAN_OUT (R8, R11). -/
inductive FpOp where
  | add
  | mul
deriving DecidableEq, Repr

/-- The free bits of NAN_OUT (log entry 8). -/
opaque nanBits : FpOp → Word → Word → Word

/-- NAN_OUT: some quiet NaN, chosen by the operation and its operands (R11). -/
def nanOut (op : FpOp) (a b : Word) : Word := nanBits op a b ||| 0x7FC00000

/-- The buffers a reset leaves unspecified (spec/70_reset_and_hazards.md R115). -/
inductive Buffer where
  | spec
  | inp
  | out
  | hist
  | acc
deriving DecidableEq, Repr

/-- The word that element `i` of a buffer holds after the reset numbered `n`, which may depend on the word it held
before (R115, log entry 12). -/
opaque resetWord (n : Nat) (b : Buffer) (i : Nat) (before : Word) : Word

/-- The read data that the spec leaves open, by the number of the free value (R39 and
spec/93_implementation_defined.md rows 7 and 20, log entry 4). -/
opaque freeRead : Nat → Word

end Sys2Proof.Config
end

