-- ==== Sys2Proof/Machine/Float.lean ====
section
/-! DEFINITION. The binary32 operations of the data path: `fadd32` and `fmul32` of spec/00_scope.md R11. -/

namespace Sys2Proof.Machine

/-- `fadd32`: IEEE 754 binary32 addition, round to nearest ties to even, subnormals kept, a NaN result by
NAN_OUT (R11). An exact sum of zero is `-0.0` only when both addends are negative. -/
def fadd32 (a b : Word) : Word :=
  if fpIsNaN a || fpIsNaN b then Config.nanOut .add a b
  else if fpIsInf a then
    if fpIsInf b && (fpSign a != fpSign b) then Config.nanOut .add a b else a
  else if fpIsInf b then b
  else
    let u := fpUnits a + fpUnits b
    if u = 0 then fpPack (fpSign a && fpSign b) 0
    else fpPack (decide (u < 0)) (roundMag u.natAbs 0)

/-- `fmul32`: IEEE 754 binary32 multiplication, as `fadd32` (R11, the corner cases of spec/40_transform.md R61).
The product of two magnitudes counts units of 2^-298. -/
def fmul32 (a b : Word) : Word :=
  let sign := fpSign a != fpSign b
  if fpIsNaN a || fpIsNaN b then Config.nanOut .mul a b
  else if fpIsInf a then
    if fpIsZero b then Config.nanOut .mul a b else fpPack sign fpInfBits
  else if fpIsInf b then
    if fpIsZero a then Config.nanOut .mul a b else fpPack sign fpInfBits
  else fpPack sign (roundMag (fpMag a * fpMag b) 149)

end Sys2Proof.Machine
end

