-- ==== Sys2Proof/Machine/Window.lean ====
section
/-! DEFINITION. Window coefficients and their application (spec/40_transform.md R59 to R61). -/

namespace Sys2Proof.Machine

/-- pi in units of 2^-149, rounded down. -/
def piUnits : Nat := 2241915433129013145207424413937163636940505383

/-- The product of two numbers held in units of 2^-149, in the same units, rounded down. -/
def mulUnits (a b : Nat) : Nat := a * b / 2 ^ 149

/-- The alternating series `t_k - (t_(k+1) - (t_(k+2) - ...))` of `fuel` terms, where
`t_(k+1) = t_k * x^2 / ((2k+1)(2k+2))`. -/
def cosTail (x2 : Nat) : Nat → Nat → Nat → Nat
  | 0, _, _ => 0
  | fuel + 1, k, t =>
    t - cosTail x2 fuel (k + 1) (mulUnits t x2 / ((2 * k + 1) * (2 * k + 2)))

/-- `0.5*(1-cos(2*pi*i/N))` in units of 2^-149, up to an error far below any binary32 rounding (R59, log entry 10):
the cosine series at `x = 2*pi*i'/N`, where `i'` is the nearer of `i` and `N-i`, so that `x` is at most pi. -/
def hannUnits (N i : Nat) : Nat :=
  let x := min i (N - i) * 2 * piUnits / N
  let x2 := mulUnits x x
  cosTail x2 32 1 (x2 / 2) / 2

/-- `w(HANN, N, i)`, the exact coefficient rounded once to binary32 (R59). -/
def hannWord (N i : Nat) : Word := fpPack false (roundMag (hannUnits N i) 0)

/-- The window coefficient `w(kind, N, i)` of R59. -/
def windowCoeff (kind : WinKind) (N i : Nat) : Word :=
  match kind with
  | .rect => fpOne
  | .hann => hannWord N i

/-- `apply_window(kind, N)` of R61 on an interleaved list: RECT multiplies nothing, HANN multiplies the real
channel, the words of even index, and leaves the imaginary channel alone. -/
def applyWindow (kind : WinKind) (N : Nat) (ws : List Word) : List Word :=
  match kind with
  | .rect => ws
  | .hann => ws.mapIdx fun p w => if p % 2 = 0 then fmul32 w (hannWord N (p / 2)) else w

end Sys2Proof.Machine
end

