-- ==== Sys2Proof/Machine/Ops.lean ====
section
/-! DEFINITION. The shared operations of the commands: reporting an error (spec/60_exceptions.md R101), the transform
procedures (spec/40_transform.md R66, R67), the Hermitian enforcer (spec/42_reconstruction.md R76), the rings
(spec/41_analyzer.md R72, spec/43_synthesizer.md R81), emission (R82) and pass-through
(spec/44_stage_control.md R89). A loop of the spec whose iterations read no word an earlier one wrote is one
list of words written at once (log entry 17). -/

namespace Sys2Proof.Machine

/-- `record(code)`: note the error and go on (R101). -/
def record (code : ErrCode) (s : State) : State := { s with err := code }

/-- `raise CmdError(code)`: note the error and end the command with no other effect (R101). -/
def raiseError (code : ErrCode) (s : State) : Host.Outcome State Fault Refusal := .next (record code s)

/-- The return from an error, the host's write to REG.ERR: the code becomes NONE (R23, R106). -/
def clearError (s : State) : State := { s with err := .none }

/-- Write consecutive words of SPEC. -/
def writeSpec (i : Nat) (ws : List Word) (s : State) : State :=
  { s with specBuf := s.specBuf.writeWords i ws }

/-- Write consecutive words of hist. -/
def writeHist (i : Nat) (ws : List Word) (s : State) : State :=
  { s with histBuf := s.histBuf.writeWords i ws }

/-- Write consecutive words of acc. -/
def writeAcc (i : Nat) (ws : List Word) (s : State) : State :=
  { s with accBuf := s.accBuf.writeWords i ws }

/-- `SPEC[0..2N-1]` after `apply_window(FWD_KIND, N)` (R66): what the forward transform reads. -/
def State.windowedSpec (s : State) : List Word :=
  applyWindow s.fwdKind s.transformLen (s.specBuf.readWords 0 (2 * s.transformLen))

/-- `FFT_F32(inverse, N, SPEC[0..2N-1])` (R67), before the optional window. -/
def State.inverseSpec (s : State) : List Word :=
  Config.fft.run .inverse s.transformLen (s.specBuf.readWords 0 (2 * s.transformLen))

/-- `transform_fwd()` (R66). -/
def transformFwd (s : State) : State :=
  writeSpec 0 (Config.fft.run .forward s.transformLen s.windowedSpec) s

/-- `transform_inv()` (R67). -/
def transformInv (s : State) : State :=
  writeSpec 0 (applyWindow s.invKind s.transformLen s.inverseSpec) s

/-- The words of bins N/2+1 to N-1, in order, that `rebuild()` writes: bin `N-k` is the conjugate of bin `k`, its
real part copied, its imaginary part with bit 31 flipped (R76). -/
def State.conjugateWords (s : State) : List Word :=
  (List.range (2 * (s.transformLen / 2 - 1))).map fun p =>
    let k := s.transformLen / 2 - 1 - p / 2
    if p % 2 = 0 then s.specWord (2 * k) else fneg32 (s.specWord (2 * k + 1))

/-- `rebuild()` (R76): the words of bins 0 to N/2 are not written. -/
def rebuildSpec (s : State) : State :=
  writeSpec (2 * (s.transformLen / 2 + 1)) s.conjugateWords s

/-- Steps 1 and 2 of ANALYZE: `hist[0..N-1] <- hist[B..N-1] ++ IN[0..B-1]` (R72). -/
def shiftHist (s : State) : State :=
  writeHist 0
    (s.histBuf.readWords s.blockLen (s.transformLen - s.blockLen) ++ s.inBuf.readWords 0 s.blockLen) s

/-- Step 3 of ANALYZE: the ring in the real channel, `+0.0` in the imaginary channel (R72). -/
def frameHist (s : State) : State :=
  writeSpec 0
    ((List.range (2 * s.transformLen)).map fun p => if p % 2 = 0 then s.histWord (p / 2) else fpZero) s

/-- Steps 1 to 4 of ANALYZE, then `phase <- HOOK` and `OUT_VALID <- 0` (R72). -/
def openCycle (s : State) : State :=
  { transformFwd (frameHist (shiftHist s)) with phase := .hook, outValid := false }

/-- `passthru()`: all 4096 words of IN are copied to OUT bit for bit (R89), so that the buffers become equal. -/
def passthru (s : State) : State :=
  { s with outBuf := s.inBuf, outValid := true, drop := false }

/-- ANALYZE after its phase check (R72). -/
def analyzeBody (s : State) : State :=
  if s.active then openCycle s
  else if s.configured then passthru s
  else record .notConfigured (passthru s)

/-- Step 3 of SYNTHESIZE: `acc[n] <- fadd32(acc[n], SPEC[2n])`, the real channel only (R81). -/
def overlapAdd (s : State) : State :=
  writeAcc 0 ((List.range s.transformLen).map fun n => fadd32 (s.accWord n) (s.specWord (2 * n))) s

/-- The delivered branch of `emit()` (R82). -/
def deliver (s : State) : State :=
  { s with outBuf := s.outBuf.writeWords 0 (s.accBuf.readWords 0 s.blockLen), outValid := true, drop := false }

/-- The dropped branch of `emit()` (R82); DROP_COUNT wraps modulo 2^32 (R27). -/
def dropFrame (s : State) : State :=
  record .allocationFailure { s with outValid := false, drop := true, dropCount := s.dropCount + 1 }

/-- `emit()`: `out_alloc_ok` is sampled once (R82). -/
def emit (s : State) : State := if s.outAllocOk then deliver s else dropFrame s

/-- Step 5 of SYNTHESIZE: `acc[0..N-1] <- acc[B..N-1] ++ zeros(B)` (R81). -/
def rotateAcc (s : State) : State :=
  writeAcc 0
    (s.accBuf.readWords s.blockLen (s.transformLen - s.blockLen) ++ List.replicate s.blockLen fpZero) s

/-- SYNTHESIZE after its phase check (R81). -/
def synthesizeBody (s : State) : State :=
  { rotateAcc (emit (overlapAdd (transformInv (rebuildSpec s)))) with phase := .idle }

end Sys2Proof.Machine
end

