-- ==== Sys2Proof/Machine/Bus.lean ====
section
/-! DEFINITION. The host port: reads and writes of the window, bus errors, and the reset input (spec/20_memory.md R35 to
R42, spec/70_reset_and_hazards.md R114, R115, R117). -/

namespace Sys2Proof.Machine

/-- The offset in the window of a byte address of the host, if the core decodes it (R35, R36). -/
def windowOffset (address : Nat) : Option Nat :=
  if Config.base ≤ address ∧ address < Config.base + windowBytes then some (address - Config.base) else none

/-- The only access the core accepts: 4 bytes at a multiple of 4 (R38). -/
def accepted (off size : Nat) : Bool := size == 4 && off % 4 == 0

/-- The value of a register (spec/10_state.md section 3); REG.CMD reads 0 (R21). -/
def readRegister (r : Register) (s : State) : Word :=
  match r with
  | .cmd => 0
  | .status => s.statusWord
  | .err => s.errWord
  | .reqFs => s.reqFs
  | .reqN => s.reqN
  | .reqB => s.reqB
  | .cfgN => s.cfgN
  | .cfgB => s.cfgB
  | .cfgFs => s.cfgFs
  | .win => s.winWord
  | .dropCount => s.dropCount

/-- What an accepted read returns (R41); reserved offsets read 0 (R40). -/
def readLocation (l : Location) (s : State) : Word :=
  match l with
  | .register r => readRegister r s
  | .inWord i => s.inWord i
  | .outWord i => s.outWord i
  | .specWord i => s.specWord i
  | .reserved => 0

/-- A command word is written to REG.CMD: it is in progress until the core completes it (R19, R21). -/
def startCommand (w : Word) (s : State) : State := { s with busy := true, command := w }

/-- A write to a register (R42); the read-only registers ignore it (R40). -/
def writeRegister (r : Register) (v : Word) (s : State) : State :=
  match r with
  | .cmd => startCommand v s
  | .status => s
  | .err => clearError s
  | .reqFs => { s with reqFs := v }
  | .reqN => { s with reqN := v }
  | .reqB => { s with reqB := v }
  | .cfgN => s
  | .cfgB => s
  | .cfgFs => s
  | .win => s
  | .dropCount => s

/-- An accepted write (R42): OUT and reserved offsets ignore it (R40), IN and SPEC store it bit for bit. -/
def writeLocation (l : Location) (v : Word) (s : State) : State :=
  match l with
  | .register r => writeRegister r v s
  | .inWord i => { s with inBuf := s.inBuf.setWord i v }
  | .outWord _ => s
  | .specWord i => { s with specBuf := s.specBuf.setWord i v }
  | .reserved => s

/-- The bus answers the host. -/
def respond (r : Response) (s : State) : State := { s with response := r }

/-- The next free read datum (log entries 4 and 13). -/
def State.freeDatum (s : State) : Word := Config.freeRead s.freeCount

/-- One free value has been used. -/
def drawFree (s : State) : State := { s with freeCount := s.freeCount + 1 }

/-- A read at an offset of the window: ignored in reset, its data open (R114, 93 row 20); while busy only STATUS
(R117); a bus error changes no state of the core (R39). -/
def readOffset (off size : Nat) (s : State) : Host.Outcome State Fault Refusal :=
  if s.inReset then .next (respond (.data s.freeDatum) (drawFree s))
  else if s.busy && !(accepted off size && off == 4) then .refused .busyAccess
  else if accepted off size then .next (respond (.data (readLocation (locate off) s)) s)
  else .next (respond (.readError s.freeDatum) (drawFree s))

/-- A write at an offset of the window: ignored in reset (R114); undefined while busy (R117); a bus error changes no
state of the core (R39). -/
def writeOffset (off size : Nat) (v : Word) (s : State) : Host.Outcome State Fault Refusal :=
  if s.inReset then .next (respond .written s)
  else if s.busy then .refused .busyAccess
  else if accepted off size then .next (respond .written (writeLocation (locate off) v s))
  else .next (respond .writeError s)

/-- One access of the host; an address outside the window is not the core's (R36, log entry 5). -/
def hostAccess (a : Access) (s : State) : Host.Outcome State Fault Refusal :=
  match a with
  | .read address size =>
    match windowOffset address with
    | none => .fault .outsideWindow
    | some off => readOffset off size s
  | .write address size v =>
    match windowOffset address with
    | none => .fault .outsideWindow
    | some off => writeOffset off size v s

/-- The command in progress is over (R19). -/
def clearBusy (s : State) : State := { s with busy := false, command := 0 }

/-- The unspecified contents of a buffer of `n` words after the reset numbered `epoch`, each possibly the word it held
before (R115, log entry 12). -/
def unspecifiedBuffer (epoch : Nat) (b : Config.Buffer) (n : Nat) (before : Memory) : Memory :=
  Memory.writeWords Memory.zeroed 0
    ((List.range n).map fun i => Config.resetWord epoch b i (before.getWord i))

/-- The state when reset is released (R114): every register at its reset value, every buffer unspecified (R115). The
inputs and the model's own fields are not the core's and stay. -/
def resetCore (s : State) : State :=
  drawFree
    { s with
      phase := .idle, busy := false, command := 0, configured := false, enable := true
      outValid := false, drop := false, err := .none
      reqFs := 0, reqN := 0, reqB := 0, cfgN := 0, cfgB := 0, cfgFs := 0
      fwdKind := .hann, invKind := .rect, dropCount := 0
      specBuf := unspecifiedBuffer s.freeCount .spec (2 * maxLen) s.specBuf
      inBuf := unspecifiedBuffer s.freeCount .inp maxLen s.inBuf
      outBuf := unspecifiedBuffer s.freeCount .out maxLen s.outBuf
      histBuf := unspecifiedBuffer s.freeCount .hist maxLen s.histBuf
      accBuf := unspecifiedBuffer s.freeCount .acc maxLen s.accBuf
      inReset := false }

/-- The platform drives the reset input (R114): asserting it abandons a command in progress, releasing it leaves the
reset state; a level that does not change does nothing (log entry 13). -/
def driveReset (asserted : Bool) (s : State) : State :=
  if asserted then { clearBusy s with inReset := true }
  else if s.inReset then resetCore s
  else s

/-- The environment drives `out_alloc_ok` (R82, log entry 14). -/
def driveOutAlloc (ok : Bool) (s : State) : State := { s with outAllocOk := ok }

end Sys2Proof.Machine
end

