-- ==== Sys2Proof/Machine/Control.lean ====
section
/-! DEFINITION. The control commands NOP, CONFIGURE, SET_WINDOW and ENABLE (spec/44_stage_control.md R85, R87, R88;
spec/40_transform.md R70), and the execution of an illegal word (spec/60_exceptions.md R102). -/

namespace Sys2Proof.Machine

/-- NOP (R87): no effect, not even on REG.ERR. -/
def execNop (s : State) : Host.Outcome State Fault Refusal := .next s

/-- The failure path of CONFIGURE: the stage becomes Unconfigured (R85). -/
def unconfigure (s : State) : State :=
  record .sizeUnsupported { s with configured := false, cfgN := 0, cfgB := 0 }

/-- The success path of CONFIGURE (R85); `enable` is not changed. -/
def applyConfiguration (s : State) : State :=
  { s with
    cfgN := s.reqN, cfgB := s.reqB, cfgFs := s.reqFs
    fwdKind := .hann, invKind := .rect
    histBuf := Memory.zeroed, accBuf := Memory.zeroed, specBuf := Memory.zeroed
    outValid := false, drop := false
    configured := true }

/-- CONFIGURE (R85). -/
def execConfigure (s : State) : Host.Outcome State Fault Refusal :=
  if s.phase = .hook then raiseError .sequence s
  else if validSize s.reqN s.reqB then .next (applyConfiguration s)
  else .next (unconfigure s)

/-- Write one field of REG.WIN (R26, R70). -/
def selectWindow (dir : Dir) (kind : WinKind) (s : State) : State :=
  match dir with
  | .forward => { s with fwdKind := kind }
  | .inverse => { s with invKind := kind }

/-- SET_WINDOW (R70). A reserved KIND is not a SET_WINDOW at all but BAD_COMMAND (R70, R55, log entry 16). -/
def execSetWindow (dir : Dir) (kind : BitVec 2) (s : State) : Host.Outcome State Fault Refusal :=
  match kindOfField kind with
  | none => raiseError .badCommand s
  | some k =>
    if s.phase = .hook then raiseError .sequence s
    else if s.configured then .next (selectWindow dir k s)
    else raiseError .notConfigured s

/-- ENABLE (R88). -/
def execEnable (en : Bool) (s : State) : Host.Outcome State Fault Refusal :=
  if s.phase = .hook then raiseError .sequence s else .next { s with enable := en }

/-- A word that decodes to BAD (R102). -/
def execBad (s : State) : Host.Outcome State Fault Refusal := raiseError .badCommand s

end Sys2Proof.Machine
end

