-- ==== Sys2Proof/Machine/Cycle.lean ====
section
/-! DEFINITION. The cycle commands ANALYZE, SYNTHESIZE and UPDATE (spec/41_analyzer.md R72, spec/43_synthesizer.md R81,
spec/44_stage_control.md R90). -/

namespace Sys2Proof.Machine

/-- ANALYZE (R72). -/
def execAnalyze (s : State) : Host.Outcome State Fault Refusal :=
  if s.phase = .hook then raiseError .sequence s else .next (analyzeBody s)

/-- SYNTHESIZE (R81). -/
def execSynthesize (s : State) : Host.Outcome State Fault Refusal :=
  if s.phase = .idle then raiseError .sequence s else .next (synthesizeBody s)

/-- The second half of UPDATE: SYNTHESIZE's body runs only if ANALYZE's opened a cycle (R90). -/
def closeIfOpen (s : State) : State := if s.phase = .hook then synthesizeBody s else s

/-- UPDATE (R90). -/
def execUpdate (s : State) : Host.Outcome State Fault Refusal :=
  if s.phase = .hook then raiseError .sequence s else .next (closeIfOpen (analyzeBody s))

end Sys2Proof.Machine
end

