-- ==== Sys2Proof/Machine/Units.lean ====
section
/-! DEFINITION. The unit commands XFORM_FWD, XFORM_INV and REBUILD: they need `configured = 1` only, and run in either
phase (spec/40_transform.md R68, R69; spec/42_reconstruction.md R77). -/

namespace Sys2Proof.Machine

/-- XFORM_FWD (R68). -/
def execXformFwd (s : State) : Host.Outcome State Fault Refusal :=
  if s.configured then .next (transformFwd s) else raiseError .notConfigured s

/-- XFORM_INV (R69). -/
def execXformInv (s : State) : Host.Outcome State Fault Refusal :=
  if s.configured then .next (transformInv s) else raiseError .notConfigured s

/-- REBUILD (R77). -/
def execRebuild (s : State) : Host.Outcome State Fault Refusal :=
  if s.configured then .next (rebuildSpec s) else raiseError .notConfigured s

end Sys2Proof.Machine
end

