-- ==== Sys2Proof/Machine/Dispatch.lean ====
section
/-! DEFINITION. One arm per command: the meaning of each constructor of Instr. -/

namespace Sys2Proof.Machine

def exec (i : Instr) (s : State) : Host.Outcome State Fault Refusal :=
  match i with
  | .nop => Sys2Proof.Machine.execNop s
  | .configure => Sys2Proof.Machine.execConfigure s
  | .setWindow dir kind => Sys2Proof.Machine.execSetWindow dir kind s
  | .enable en => Sys2Proof.Machine.execEnable en s
  | .analyze => Sys2Proof.Machine.execAnalyze s
  | .rebuild => Sys2Proof.Machine.execRebuild s
  | .synthesize => Sys2Proof.Machine.execSynthesize s
  | .update => Sys2Proof.Machine.execUpdate s
  | .xformFwd => Sys2Proof.Machine.execXformFwd s
  | .xformInv => Sys2Proof.Machine.execXformInv s

end Sys2Proof.Machine
end

