-- ==== Sys2Proof/Machine/Agents.lean ====
section
/-! DEFINITION. What each agent does in its turn: the core, the host, the platform (spec/20_memory.md R43, R46). -/

namespace Sys2Proof.Machine

/-- Execute a written word: the command it decodes to (spec/30_encoding.md R54), or BAD (R102). -/
def runWord (w : Word) (s : State) : Host.Outcome State Fault Refusal :=
  match decode w with
  | some i => exec i s
  | none => execBad s

/-- The core's turn: it completes the command in progress in one step and BUSY reads 0 (R19, R43); with no command
there is nothing to do (R17). -/
def coreTurn (s : State) : Host.Outcome State Fault Refusal :=
  if s.busy then runWord s.command (clearBusy s) else .next s

/-- One event takes place. -/
def takeEvent (e : Event) (s : State) : Host.Outcome State Fault Refusal :=
  match e with
  | .host a => hostAccess a s
  | .core => coreTurn s
  | .resetInput asserted => .next (driveReset asserted s)
  | .outAlloc ok => .next (driveOutAlloc ok s)

/-- The first event of the agenda takes place; with an empty agenda only the core can act (log entries 1, 2). -/
def nextTurn (s : State) : Host.Outcome State Fault Refusal :=
  match s.agenda with
  | [] => coreTurn s
  | e :: rest => takeEvent e { s with agenda := rest }

/-- A command word stands where the core takes its next command from: the host has written it to REG.CMD and it is
the core's turn. -/
def placeCommand (w : Word) (s : State) : State :=
  { startCommand w s with inReset := false, agenda := .core :: s.agenda }

end Sys2Proof.Machine
end

