-- ==== Sys2Proof/Machine/Step.lean ====
section
/-! DEFINITION. One step of the machine, and the placing of a command for it. -/

namespace Sys2Proof.Machine

/-- One step: the next event of the host, the core or the platform. -/
def step (s : State) : Host.Outcome State Fault Refusal := nextTurn s

/-- The state in which the very next step runs the command whose word is the low `nbits` bits of `w`: it stands for
the host's write of that word to REG.CMD (log entry 1). -/
def State.withFetchWord (s : State) (nbits w : Nat) : State := placeCommand (tableWord nbits w) s

end Sys2Proof.Machine
end

