-- ==== Sys2Proof/Safety.lean ====
section
/-! DEFINITION. What counts as a good state, in the terms claims use. -/

namespace Sys2Proof.Machine

/-- A buffer in canonical form whose listed bytes lie inside it. -/
abbrev BufferOk (m : Memory) (bytes : Nat) : Prop := m.wf ∧ m.within bytes

/-- A configuration that CONFIGURE can leave: sizes that passed validation while configured, zeros otherwise (R25,
R85). -/
abbrev State.configOk (s : State) : Prop :=
  if s.configured then validSize s.cfgN s.cfgB = true else s.cfgN = 0 ∧ s.cfgB = 0

/-- The hook window is open only on an active core (R92). -/
abbrev State.phaseOk (s : State) : Prop := s.phase = .hook → s.configured = true ∧ s.enable = true

/-- A command is in progress only outside reset (R114). -/
abbrev State.busyOk (s : State) : Prop := s.inReset = true → s.busy = false

/-- The five buffers hold exactly their words (R6, R29 to R32). -/
abbrev State.buffersOk (s : State) : Prop :=
  BufferOk s.specBuf specBytes ∧ BufferOk s.inBuf blockBytes ∧ BufferOk s.outBuf blockBytes ∧
    BufferOk s.histBuf blockBytes ∧ BufferOk s.accBuf blockBytes

/-- The invariant of the machine. -/
abbrev State.Inv (s : State) : Prop := s.configOk ∧ s.phaseOk ∧ s.busyOk ∧ s.buffersOk

/-- A run step is safe when the machine goes on. -/
def SafeStep (s : State) : Prop := ∃ t, step s = .next t

end Sys2Proof.Machine
end

