-- ==== Sys2Proof/Certificates/Slice0/Obligations.lean ====
section
/-! DEFINITION. The statements for the provers, and the index-by-index functions they are stated with. -/

namespace Sys2Proof.Claims

open Sys2Proof.Machine

/-- Word `p` of an interleaved buffer after the window of a transform of length `N`: only HANN multiplies, and only the
real channel, the words of even index (R61). -/
def windowed (kind : WinKind) (N p : Nat) (w : Word) : Word :=
  if kind = .hann ∧ p % 2 = 0 then fmul32 w (hannWord N (p / 2)) else w

/-- The 2N words `f 0, f 1, ...`. -/
def wordList (N : Nat) (f : Nat → Word) : List Word := (List.range (2 * N)).map f

/-- Word `p` of the windowed forward transform of the words `f` (R66). -/
def forwardWord (kind : WinKind) (N : Nat) (f : Nat → Word) (p : Nat) : Word :=
  (Config.fft.run .forward N (wordList N fun q => windowed kind N q (f q))).getD p 0

/-- Word `p` of the inverse transform of the words `f`, windowed after it (R67). -/
def inverseWord (kind : WinKind) (N : Nat) (f : Nat → Word) (p : Nat) : Word :=
  windowed kind N p ((Config.fft.run .inverse N (wordList N f)).getD p 0)

/-- Word `p` after bins N/2+1..N-1 were made the conjugates of bins N/2-1..1 (R76). -/
def rebuilt (N : Nat) (f : Nat → Word) (p : Nat) : Word :=
  if N / 2 < p / 2 ∧ p / 2 < N then
    (if p % 2 = 0 then f (2 * (N - p / 2)) else f (2 * (N - p / 2) + 1) ^^^ 0x80000000)
  else f p

/-- The real inverse output of a SYNTHESIZE in state `s`: word `2n` after its step 2 (R81, R83). -/
def synthesisSample (s : State) (n : Nat) : Word :=
  inverseWord s.invKind s.transformLen (rebuilt s.transformLen s.specWord) (2 * n)

/-- Every byte outside `[lo, hi)` reads as before. -/
def SameBytesOutside (m m' : Memory) (lo hi : Nat) : Prop :=
  ∀ a, ¬ (lo ≤ a ∧ a < hi) → m'.getByte a = m.getByte a

/-- The address of an access. -/
def addressOf : Access → Nat
  | .read a _ => a
  | .write a _ _ => a

/-- An address that the core decodes (R35, R36). -/
def InWindow (a : Nat) : Prop := Config.base ≤ a ∧ a < Config.base + 0x18000

/-- The error a command reports, by the code table R100 and the order of the checks R104. -/
def reportedError (i : Instr) (s : State) : Option ErrCode :=
  match i with
  | .nop => none
  | .configure =>
    if s.phase = .hook then some .sequence
    else if validSize s.reqN s.reqB = true then none else some .sizeUnsupported
  | .setWindow _ _ =>
    if s.phase = .hook then some .sequence
    else if s.configured = true then none else some .notConfigured
  | .enable _ => if s.phase = .hook then some .sequence else none
  | .analyze =>
    if s.phase = .hook then some .sequence
    else if s.configured = true then none else some .notConfigured
  | .rebuild => if s.configured = true then none else some .notConfigured
  | .synthesize =>
    if s.phase = .idle then some .sequence
    else if s.outAllocOk = true then none else some .allocationFailure
  | .update =>
    if s.phase = .hook then some .sequence
    else if s.configured = false then some .notConfigured
    else if s.enable = true ∧ s.outAllocOk = false then some .allocationFailure else none
  | .xformFwd => if s.configured = true then none else some .notConfigured
  | .xformInv => if s.configured = true then none else some .notConfigured

/-- What only CONFIGURE, SET_WINDOW and ENABLE may write: the stage bits, the configured values, the window kinds, and
what no command writes: the request registers, IN, and the inputs from outside. -/
def SameSettings (s t : State) : Prop :=
  t.configured = s.configured ∧ t.enable = s.enable ∧ t.cfgN = s.cfgN ∧ t.cfgB = s.cfgB ∧
  t.cfgFs = s.cfgFs ∧ t.fwdKind = s.fwdKind ∧ t.invKind = s.invKind

/-- What no command writes. -/
def SameInputs (s t : State) : Prop :=
  t.reqFs = s.reqFs ∧ t.reqN = s.reqN ∧ t.reqB = s.reqB ∧ t.inBuf = s.inBuf ∧ t.busy = s.busy ∧
  t.command = s.command ∧ t.inReset = s.inReset ∧ t.outAllocOk = s.outAllocOk ∧ t.agenda = s.agenda ∧
  t.response = s.response ∧ t.freeCount = s.freeCount

/-- A NaN whose fraction's most significant bit is set: the quiet NaN of R11's NAN_OUT (bit 22, log entry 8). -/
def IsQuietNaN (w : Word) : Prop := fpIsNaN w = true ∧ w.getLsbD 22 = true

/-- The infinity of a sign. -/
def signedInf (sign : Bool) : Word := if sign then 0xFF800000 else 0x7F800000

/-- The zero of a sign. -/
def signedZero (sign : Bool) : Word := if sign then 0x80000000 else 0x00000000

/-- The exact window coefficient of R59 before its rounding. -/
noncomputable def exactCoeff (kind : WinKind) (N i : Nat) : ℝ :=
  match kind with
  | .rect => 1
  | .hann => exactHann N i

/-- `G(j)` of R95 for N = K*B. -/
noncomputable def overlapGain (forward inverse : WinKind) (B K j : Nat) : ℝ :=
  ∑ m ∈ Finset.range K, exactCoeff forward (K * B) (m * B + j) * exactCoeff inverse (K * B) (m * B + j)

/-- The constant-overlap-add condition of R95: the gain is the same for every j. -/
def IsCola (forward inverse : WinKind) (B K : Nat) : Prop :=
  ∀ j < B, ∀ j' < B, overlapGain forward inverse B K j = overlapGain forward inverse B K j'

/-- The states that differ from `s` only in the sample rate registers REG.REQ_FS and REG.CFG_FS. -/
def withRates (req cfg : Word) (s : State) : State := { s with reqFs := req, cfgFs := cfg }

end Sys2Proof.Claims

open Sys2Proof Sys2Proof.Machine Sys2Proof.Claims

/-! ## Encoding -/

/-- R54: decoding and encoding agree in both directions on every 32-bit word. -/
def Obligations.DecodeAnswersExactlyTheEncodings : Prop :=
  ∀ (w : Word) (i : Instr), decode w = some i ↔ (i.wellFormed = true ∧ encode i = w)

/-- R54: every word decodes as the rule's table of legal words says and to BAD otherwise; the match and mask table
selects exactly the row of the decoded command, no row for a BAD word, and no two rows overlap. -/
def Obligations.DecodingFollowsItsRule : Prop :=
  ∀ w : Word,
    decode w =
      ([(0x00000000, .nop), (0x00000001, .configure), (0x00000002, .setWindow .forward 0),
        (0x00000102, .setWindow .inverse 0), (0x00000202, .setWindow .forward 1),
        (0x00000302, .setWindow .inverse 1), (0x00000003, .enable false), (0x00000103, .enable true),
        (0x00000010, .analyze), (0x00000011, .rebuild), (0x00000012, .synthesize), (0x00000013, .update),
        (0x00000020, .xformFwd), (0x00000021, .xformInv)] : List (Word × Instr)).lookup w ∧
    (∀ i, decode w = some i → ∃ r, opcodeRows[rowIndex i]? = some r ∧ r.selects w = true) ∧
    (decode w = none → ∀ r ∈ opcodeRows, r.selects w = false) ∧
    (∀ r ∈ opcodeRows, ∀ r' ∈ opcodeRows, r.selects w = true → r'.selects w = true → r = r')

/-- R57, R53: command words of the spec, one for each family, decode to the command they stand for. -/
def Obligations.WordsOfTheSpecDecode : Prop :=
  decode 0x00000302 = some (.setWindow .inverse 1) ∧ decode 0x00000202 = some (.setWindow .forward 1) ∧
  decode 0x00000103 = some (.enable true) ∧ decode 0x00000013 = some .update ∧
  decode 0x00000021 = some .xformInv ∧ decode 0x00000011 = some .rebuild ∧
  decode 0x00000402 = none ∧ decode 0x00000100 = none ∧ decode 0x80000010 = none

/-! ## The step -/

/-- When it is the core's turn and the word in progress decodes to a command, the step is that command on the state
whose busy bit is cleared (R19, R43). That the core's turn is a `core` event or an empty agenda is the model's choice
(log entries 1 and 2), and so is the second clause: withFetchWord sets busy and the word in progress, releases reset and
puts a `core` event first (log entry 1). -/
def Obligations.StepRunsTheDecodedCommand : Prop :=
  (∀ (s : State) (i : Instr), s.busy = true → (s.agenda = [] ∨ s.agenda.head? = some .core) →
    decode s.command = some i → i.wellFormed = true →
    step s = exec i { s with busy := false, command := 0, agenda := s.agenda.tail }) ∧
  (∀ (s : State) (w : Nat) (i : Instr), decodeTableWord 32 w = some i →
    step (s.withFetchWord 32 w) = exec i { s with busy := false, command := 0, inReset := false })

/-- R102: a word that decodes to BAD records BAD_COMMAND and changes nothing else. -/
def Obligations.IllegalWordOnlyRecordsBadCommand : Prop :=
  ∀ s : State, s.busy = true → (s.agenda = [] ∨ s.agenda.head? = some .core) → decode s.command = none →
    step s = .next { s with busy := false, command := 0, agenda := s.agenda.tail, err := .badCommand }

/-- R21, R19, R43: the host's write of a legal word to REG.CMD sets BUSY and changes nothing else of the core; the core
then performs the command in one step, on the buffers and registers as they stood, and BUSY is 0 before it is seen
again. -/
def Obligations.HostCommandRunsToCompletion : Prop :=
  ∀ (s : State) (w : Word) (i : Instr) (rest : List Event),
    s.agenda = .host (.write Config.base 4 w) :: .core :: rest → s.busy = false → s.inReset = false →
    decode w = some i →
    ∃ u, step s = .next u ∧
      u = { s with busy := true, command := w, agenda := .core :: rest, response := .written } ∧
      u.statusWord = s.statusWord ||| 1 ∧
      step u = exec i { s with busy := false, command := 0, agenda := rest, response := .written }

/-- The only stops: an access outside the window (the model's choice, log entry 5) and an access while busy other than
a read of STATUS (R117, log entry 3). No command and no data end a run. -/
def Obligations.OnlyForbiddenAccessesStop : Prop :=
  ∀ s : State,
    (∃ t, step s = .next t) ∨
    (∃ a rest, s.agenda = .host a :: rest ∧ ¬ InWindow (addressOf a) ∧ step s = .fault .outsideWindow) ∨
    (∃ a rest, s.agenda = .host a :: rest ∧ InWindow (addressOf a) ∧ s.inReset = false ∧ s.busy = true ∧
      a ≠ .read (Config.base + 4) 4 ∧ step s = .refused .busyAccess)

/-! ## Control commands -/

/-- R87. -/
def Obligations.NopHasNoEffect : Prop :=
  (∀ s : State, exec .nop s = .next s) ∧ encode .nop = 0x00000000 ∧
  ∀ w : Word, fieldOpc w = 0x00 → w ≠ 0x00000000 → decode w = none

/-- R84: the accepted sizes, by the rule's formula and by what it derives. -/
def Obligations.ValidSizesArePowersOfTwo : Prop :=
  ∀ n b : Word,
    (validSize n b = true ↔
      (n.toNat = 16 ∨ n.toNat = 32 ∨ n.toNat = 64 ∨ n.toNat = 128 ∨ n.toNat = 256 ∨ n.toNat = 512 ∨
        n.toNat = 1024 ∨ n.toNat = 2048 ∨ n.toNat = 4096) ∧
      1 ≤ b.toNat ∧ b.toNat ≤ n.toNat ∧ n.toNat % b.toNat = 0) ∧
    (validSize n b = true ↔
      ∃ m j, 4 ≤ m ∧ m ≤ 12 ∧ j ≤ m ∧ n.toNat = 2 ^ m ∧ b.toNat = 2 ^ j ∧ n.toNat / b.toNat = 2 ^ (m - j))

/-- R85, R99: CONFIGURE refused in the hook window, failing on unsupported sizes (among them every length outside the
supported set), and succeeding. -/
def Obligations.ConfigureFollowsItsRule : Prop :=
  encode .configure = 0x00000001 ∧
  ∀ s : State,
    (s.phase = .hook → exec .configure s = .next { s with err := .sequence }) ∧
    (s.phase = .idle → validSize s.reqN s.reqB = false →
      exec .configure s =
        .next { s with configured := false, cfgN := 0, cfgB := 0, err := .sizeUnsupported }) ∧
    (s.phase = .idle → s.reqN.toNat ∉ [16, 32, 64, 128, 256, 512, 1024, 2048, 4096] →
      ∃ t, exec .configure s = .next t ∧ t.errWord = 1 ∧ t.configured = false ∧ t.cfgN = 0) ∧
    (s.phase = .idle → validSize s.reqN s.reqB = true →
      ∃ t, exec .configure s = .next t ∧
        t = { s with
          cfgN := s.reqN, cfgB := s.reqB, cfgFs := s.reqFs, fwdKind := .hann, invKind := .rect
          outValid := false, drop := false, configured := true
          histBuf := t.histBuf, accBuf := t.accBuf, specBuf := t.specBuf } ∧
        t.winWord = 0x00000001 ∧ (∀ i < 4096, t.histWord i = 0 ∧ t.accWord i = 0) ∧
        (∀ i < 8192, t.specWord i = 0))

/-- R70: SET_WINDOW writes one field of REG.WIN; a word with a KIND of 2 or 3 is no SET_WINDOW. -/
def Obligations.SetWindowFollowsItsRule : Prop :=
  (∀ w : Word, fieldOpc w = 0x02 → 2 ≤ (fieldKind w).toNat → decode w = none) ∧
  ∀ (dir : Dir) (kind : BitVec 2), kind.toNat < 2 →
    encode (.setWindow dir kind) =
      0x00000002 ||| ((if dir = .inverse then 1#32 else 0#32) <<< 8) ||| (kind.zeroExtend 32 <<< 9) ∧
    ∀ s : State,
      (s.phase = .hook → exec (.setWindow dir kind) s = .next { s with err := .sequence }) ∧
      (s.phase = .idle → s.configured = false →
        exec (.setWindow dir kind) s = .next { s with err := .notConfigured }) ∧
      (s.phase = .idle → s.configured = true →
        ∃ t, exec (.setWindow dir kind) s = .next t ∧
          (dir = .forward → t = { s with fwdKind := t.fwdKind } ∧
            t.winWord = (s.winWord &&& 0xFFFFFFFC) ||| kind.zeroExtend 32) ∧
          (dir = .inverse → t = { s with invKind := t.invKind } ∧
            t.winWord = (s.winWord &&& 0xFFFFFFF3) ||| (kind.zeroExtend 32 <<< 2)))

/-- A SET_WINDOW term with a reserved KIND, which no word encodes, reports BAD_COMMAND as R70 says of such words (the
model's choice for the term, log entry 16). -/
def Obligations.ReservedKindIsBadCommand : Prop :=
  ∀ (dir : Dir) (kind : BitVec 2) (s : State), 2 ≤ kind.toNat →
    Instr.wellFormed (.setWindow dir kind) = false ∧
    exec (.setWindow dir kind) s = .next { s with err := .badCommand }

/-- R88. -/
def Obligations.EnableFollowsItsRule : Prop :=
  ∀ en : Bool, encode (.enable en) = 0x00000003 ||| ((if en then 1#32 else 0#32) <<< 8) ∧
    ∀ s : State,
      (s.phase = .hook → exec (.enable en) s = .next { s with err := .sequence }) ∧
      (s.phase = .idle → exec (.enable en) s = .next { s with enable := en })

/-! ## Errors and the frame of every command -/

/-- R100, R101, R104: every command goes on, its code is the one the table gives, a command that reports none leaves
REG.ERR, and a SEQUENCE error has no other effect (R118). -/
def Obligations.ErrorsFollowTheCodeTable : Prop :=
  ∀ (i : Instr) (s : State), i.wellFormed = true →
    ∃ t, exec i s = .next t ∧ t.err = (reportedError i s).getD s.err ∧
      (reportedError i s = some .sequence → t = { s with err := .sequence }) ∧
      (reportedError i s = some .notConfigured → i ≠ .analyze → i ≠ .update →
        t = { s with err := .notConfigured })

/-- R18: an active ANALYZE opens the hook window, SYNTHESIZE closes it, and no other command changes the phase; it is
IDLE after reset and bit 3 of STATUS shows it. -/
def Obligations.PhaseChangesOnlyByTheCycle : Prop :=
  (∀ (i : Instr) (s t : State), exec i s = .next t → t.phase ≠ s.phase →
    (i = .analyze ∧ s.active = true ∧ t.phase = .hook) ∨ (i = .synthesize ∧ t.phase = .idle)) ∧
  (∀ s : State, s.phase = .idle → s.active = true → ∃ t, exec .analyze s = .next t ∧ t.phase = .hook) ∧
  (∀ s : State, s.phase = .hook → ∃ t, exec .synthesize s = .next t ∧ t.phase = .idle) ∧
  State.reset.phase = .idle ∧ ∀ s : State, s.statusWord.getLsbD 3 = decide (s.phase = .hook)

/-- R20, R24, R25, R26, R30, R70, R85, R88: who writes the settings, and that no command writes the request registers,
IN or the inputs. -/
def Obligations.SettingsChangeOnlyByTheirCommands : Prop :=
  ∀ (i : Instr) (s t : State), exec i s = .next t →
    SameInputs s t ∧
    (i ≠ .configure → (∀ en, i ≠ .enable en) → (∀ d k, i ≠ .setWindow d k) → SameSettings s t) ∧
    (i = .configure → t.enable = s.enable) ∧
    (∀ en, i = .enable en → t = { s with enable := t.enable, err := t.err }) ∧
    (∀ d k, i = .setWindow d k → t = { s with fwdKind := t.fwdKind, invKind := t.invKind, err := t.err })

/-- R86: a command other than CONFIGURE does the same whatever the two sample rate registers hold; CONFIGURE copies the
one into the other when it succeeds, and is the same otherwise. -/
def Obligations.OnlyConfigureReadsTheSampleRate : Prop :=
  ∀ (i : Instr) (s : State) (req cfg : Word),
    (i ≠ .configure →
      ∃ t, exec i s = .next t ∧ exec i (withRates req cfg s) = .next (withRates req cfg t)) ∧
    (∃ t, exec .configure s = .next t ∧
      exec .configure (withRates req cfg s) =
        .next (withRates req (if s.phase = .idle ∧ validSize s.reqN s.reqB = true then req else cfg) t))

/-- R29, R31, R32: words beyond the active length keep every byte under every command but CONFIGURE. -/
def Obligations.WordsBeyondTheLengthAreKept : Prop :=
  ∀ (i : Instr) (s t : State), s.configOk → i ≠ .configure → exec i s = .next t →
    SameBytesOutside s.specBuf t.specBuf 0 (8 * s.transformLen) ∧
    SameBytesOutside s.histBuf t.histBuf 0 (4 * s.transformLen) ∧
    SameBytesOutside s.accBuf t.accBuf 0 (4 * s.transformLen)

/-- R91: who writes OUT_VALID. -/
def Obligations.OutValidChangesOnlyByItsWriters : Prop :=
  ∀ (i : Instr) (s t : State), exec i s = .next t → t.outValid ≠ s.outValid →
    (i = .configure ∧ t.outValid = false) ∨ (i = .analyze ∧ t.outValid = !s.active) ∨
    (i = .synthesize ∧ t.outValid = s.outAllocOk) ∨
    (i = .update ∧ t.outValid = (!s.active || s.outAllocOk))

/-- R27, R109: DROP_COUNT changes only by one, modulo 2^32, at a dropped emission, and by reset. -/
def Obligations.DropCountChangesOnlyByDropsAndReset : Prop :=
  ∀ s t : State, step s = .next t → t.dropCount ≠ s.dropCount →
    (s.busy = true ∧ s.outAllocOk = false ∧ t.drop = true ∧ t.err = .allocationFailure ∧
      t.dropCount = s.dropCount + 1 ∧ (decode s.command = some .synthesize ∨ decode s.command = some .update)) ∨
    (s.inReset = true ∧ s.agenda.head? = some (.resetInput false) ∧ t.dropCount = 0)

/-! ## The transform unit -/

/-- R68, R66: XFORM_FWD. -/
def Obligations.ForwardTransformFollowsItsRule : Prop :=
  encode .xformFwd = 0x00000020 ∧
  ∀ s : State,
    (s.configured = false → exec .xformFwd s = .next { s with err := .notConfigured }) ∧
    (s.configured = true →
      ∃ t, exec .xformFwd s = .next t ∧ t = { s with specBuf := t.specBuf } ∧
        (∀ p < 2 * s.transformLen, t.specWord p = forwardWord s.fwdKind s.transformLen s.specWord p) ∧
        SameBytesOutside s.specBuf t.specBuf 0 (8 * s.transformLen))

/-- R69, R67: XFORM_INV. -/
def Obligations.InverseTransformFollowsItsRule : Prop :=
  encode .xformInv = 0x00000021 ∧
  ∀ s : State,
    (s.configured = false → exec .xformInv s = .next { s with err := .notConfigured }) ∧
    (s.configured = true →
      ∃ t, exec .xformInv s = .next t ∧ t = { s with specBuf := t.specBuf } ∧
        (∀ p < 2 * s.transformLen, t.specWord p = inverseWord s.invKind s.transformLen s.specWord p) ∧
        SameBytesOutside s.specBuf t.specBuf 0 (8 * s.transformLen))

/-- R64 (2): on finite windowed input the forward transform, and with a rectangular window the inverse transform, lies
within EPS_FFT * S of the exact transform of R62 and R63. -/
def Obligations.TransformsMeetTheAccuracyBound : Prop :=
  ∀ s : State, s.configured = true → 0 < s.transformLen →
    ((∀ p < 2 * s.transformLen, fpIsFinite (windowed s.fwdKind s.transformLen p (s.specWord p)) = true) →
      ∃ t, exec .xformFwd s = .next t ∧
        WithinBound Config.fft.eps .forward s.transformLen
          (wordList s.transformLen fun p => windowed s.fwdKind s.transformLen p (s.specWord p))
          (wordList s.transformLen t.specWord)) ∧
    ((∀ p < 2 * s.transformLen, fpIsFinite (s.specWord p) = true) → s.invKind = .rect →
      ∃ t, exec .xformInv s = .next t ∧
        WithinBound Config.fft.eps .inverse s.transformLen (wordList s.transformLen s.specWord)
          (wordList s.transformLen t.specWord))

/-- R64 (3): zeros in give zeros out, whatever the window kinds. -/
def Obligations.TransformsOfZerosAreZeros : Prop :=
  ∀ s : State, s.configured = true → (∀ p < 2 * s.transformLen, IsZeroWord (s.specWord p)) →
    (∃ t, exec .xformFwd s = .next t ∧ ∀ p < 2 * s.transformLen, IsZeroWord (t.specWord p)) ∧
    (∃ t, exec .xformInv s = .next t ∧ ∀ p < 2 * s.transformLen, IsZeroWord (t.specWord p))

/-- R62, R63, R71: the exact transforms undo each other. -/
def Obligations.ExactTransformsAreInverse : Prop :=
  ∀ (N : Nat) (z : Nat → ℂ) (n : Nat), 0 < N → n < N →
    exactDft .inverse N (exactDft .forward N z) n = z n ∧ exactDft .forward N (exactDft .inverse N z) n = z n

/-- R65: the exact forward transform of real samples is Hermitian, and its bins 0 and N/2 are real. -/
def Obligations.ExactSpectrumOfRealSamplesIsHermitian : Prop :=
  ∀ (N : Nat) (z : Nat → ℂ), 0 < N → (∀ n < N, (z n).im = 0) →
    (∀ k, 1 ≤ k → k < N →
      exactDft .forward N z (N - k) = (starRingEnd ℂ) (exactDft .forward N z k)) ∧
    (exactDft .forward N z 0).im = 0 ∧ (N % 2 = 0 → (exactDft .forward N z (N / 2)).im = 0)

/-- R59: every coefficient of every supported length is the exact real value rounded once; RECT is 1.0. -/
def Obligations.WindowCoefficientsAreCorrectlyRounded : Prop :=
  ∀ m i : Nat, 4 ≤ m → m ≤ 12 → i < 2 ^ m →
    windowCoeff .rect (2 ^ m) i = 0x3F800000 ∧
    IsNearestBinary32 (exactHann (2 ^ m) i) (windowCoeff .hann (2 ^ m) i)

/-- R60: the properties of the Hann table. -/
def Obligations.HannTableHasItsProperties : Prop :=
  ∀ m : Nat, 4 ≤ m → m ≤ 12 →
    windowCoeff .hann (2 ^ m) 0 = 0x00000000 ∧ windowCoeff .hann (2 ^ m) (2 ^ m / 2) = 0x3F800000 ∧
    windowCoeff .hann (2 ^ m) (2 ^ m / 4) = 0x3F000000 ∧
    windowCoeff .hann (2 ^ m) (3 * 2 ^ m / 4) = 0x3F000000 ∧
    windowCoeff .hann (2 ^ m) (2 ^ m) = windowCoeff .hann (2 ^ m) 0 ∧
    ∀ i, 1 ≤ i → i < 2 ^ m →
      windowCoeff .hann (2 ^ m) i = windowCoeff .hann (2 ^ m) (2 ^ m - i) ∧
      fpIsFinite (windowCoeff .hann (2 ^ m) i) = true ∧
      0 ≤ fpVal (windowCoeff .hann (2 ^ m) i) ∧ fpVal (windowCoeff .hann (2 ^ m) i) ≤ 1

/-- R95: the overlap gains of every pair of window kinds, and which pairs satisfy the constant-overlap-add
condition, in exact arithmetic. -/
def Obligations.ExactOverlapGains : Prop :=
  ∀ B K : Nat, 0 < B →
    (∀ j < B,
      overlapGain .hann .rect B 1 j = exactHann B j ∧ overlapGain .rect .hann B 1 j = exactHann B j ∧
      overlapGain .hann .hann B 1 j = exactHann B j ^ 2 ∧
      overlapGain .hann .hann B 2 j =
        (1 + Real.cos (2 * Real.pi * ((j : ℝ) / ((2 * B : Nat) : ℝ))) ^ 2) / 2 ∧
      overlapGain .rect .rect B K j = (K : ℝ) ∧
      (2 ≤ K → overlapGain .hann .rect B K j = (K : ℝ) / 2 ∧ overlapGain .rect .hann B K j = (K : ℝ) / 2) ∧
      (3 ≤ K → overlapGain .hann .hann B K j = 3 * (K : ℝ) / 8)) ∧
    (2 ≤ K → IsCola .hann .rect B K) ∧ (3 ≤ K → IsCola .hann .hann B K) ∧
    (2 ≤ B → ¬ IsCola .hann .rect B 1 ∧ ¬ IsCola .hann .hann B 1 ∧ ¬ IsCola .hann .hann B 2)

/-! ## Binary32 -/

/-- R11 (with the values of words that IEEE 754 gives, log entry 9): the sum of two finite words is the exact sum rounded to nearest, ties to even; it overflows to an infinity of
its sign exactly from the midpoint above the greatest finite word on. -/
def Obligations.AdditionIsCorrectlyRounded : Prop :=
  ∀ a b : Word, fpIsFinite a = true → fpIsFinite b = true →
    (|fpVal a + fpVal b| < 2 ^ 128 - 2 ^ 103 →
      IsNearestBinary32 (((fpVal a + fpVal b : ℚ)) : ℝ) (fadd32 a b)) ∧
    (2 ^ 128 - 2 ^ 103 ≤ |fpVal a + fpVal b| →
      fadd32 a b = if fpVal a + fpVal b < 0 then 0xFF800000 else 0x7F800000)

/-- R11 (log entry 9): the same of the product. -/
def Obligations.MultiplicationIsCorrectlyRounded : Prop :=
  ∀ a b : Word, fpIsFinite a = true → fpIsFinite b = true →
    (|fpVal a * fpVal b| < 2 ^ 128 - 2 ^ 103 →
      IsNearestBinary32 (((fpVal a * fpVal b : ℚ)) : ℝ) (fmul32 a b)) ∧
    (2 ^ 128 - 2 ^ 103 ≤ |fpVal a * fpVal b| →
      fmul32 a b = if fpVal a * fpVal b < 0 then 0xFF800000 else 0x7F800000)

/-- R11, R61, R81 (results that IEEE 754 gives, log entries 8 and 9): NaN operands, the infinities, the invalid
operations, the signs of zeros and of other results, a word times 1.0, and the sign flip. -/
def Obligations.SpecialOperandsFollowTheStandard : Prop :=
  (∀ a b : Word, fpIsNaN a = true ∨ fpIsNaN b = true →
    IsQuietNaN (fadd32 a b) ∧ IsQuietNaN (fmul32 a b)) ∧
  (∀ a b : Word, fpIsInf a = true → fpIsInf b = true → fpSign a ≠ fpSign b → IsQuietNaN (fadd32 a b)) ∧
  (∀ a b : Word, fpIsInf a = true → fpIsFinite b = true ∨ b = a → fadd32 a b = a ∧ fadd32 b a = a) ∧
  (∀ a b : Word, fpIsInf a = true → fpIsZero b = true → IsQuietNaN (fmul32 a b) ∧ IsQuietNaN (fmul32 b a)) ∧
  (∀ a b : Word, fpIsInf a = true → fpIsNaN b = false → fpIsZero b = false →
    fmul32 a b = signedInf (fpSign a != fpSign b) ∧ fmul32 b a = signedInf (fpSign a != fpSign b)) ∧
  (∀ a b : Word, fpIsFinite a = true → fpIsFinite b = true →
    (fpVal a + fpVal b = 0 → fadd32 a b = signedZero (fpSign a && fpSign b)) ∧
    (fpVal a + fpVal b ≠ 0 → fpSign (fadd32 a b) = decide (fpVal a + fpVal b < 0)) ∧
    fpSign (fmul32 a b) = (fpSign a != fpSign b)) ∧
  (∀ a b : Word, fpIsFinite a = true → fpIsZero b = true →
    fmul32 a b = signedZero (fpSign a != fpSign b) ∧ fmul32 b a = signedZero (fpSign a != fpSign b)) ∧
  (∀ a : Word, fpIsNaN a = false → fmul32 a fpOne = a) ∧
  (∀ a : Word, fneg32 (fneg32 a) = a ∧ ∀ i, (fneg32 a).getLsbD i = (a.getLsbD i != decide (i = 31)))

/-! ## The Hermitian enforcer -/

/-- R77, R76, R78: REBUILD makes the upper bins the conjugates of the lower ones bit for bit, writes nothing else, and
is idempotent. -/
def Obligations.RebuildFollowsItsRule : Prop :=
  encode .rebuild = 0x00000011 ∧
  ∀ s : State, s.Inv →
    (s.configured = false → exec .rebuild s = .next { s with err := .notConfigured }) ∧
    (s.configured = true →
      ∃ t, exec .rebuild s = .next t ∧ t = { s with specBuf := t.specBuf } ∧
        (∀ k, 1 ≤ k → k < s.transformLen / 2 →
          t.specWord (2 * (s.transformLen - k)) = s.specWord (2 * k) ∧
          t.specWord (2 * (s.transformLen - k) + 1) = s.specWord (2 * k + 1) ^^^ 0x80000000 ∧
          t.specWord (2 * k) = s.specWord (2 * k) ∧ t.specWord (2 * k + 1) = s.specWord (2 * k + 1)) ∧
        SameBytesOutside s.specBuf t.specBuf (8 * (s.transformLen / 2 + 1)) (8 * s.transformLen) ∧
        exec .rebuild t = .next t)

/-- R80: in the hook window the host may write any word of SPEC, with no fault, and what it leaves in the bins above
N/2 and beyond the length changes neither OUT nor anything else a SYNTHESIZE computes. -/
def Obligations.WritesAboveNyquistAreHarmless : Prop :=
  (∀ (s : State) (i : Nat) (v : Word) (rest : List Event), i < 8192 → s.phase = .hook → s.busy = false →
    s.inReset = false → s.agenda = .host (.write (Config.base + 0x10000 + 4 * i) 4 v) :: rest →
    step s = .next { s with agenda := rest, response := .written, specBuf := s.specBuf.setWord i v }) ∧
  ∀ (s s' : State), s.Inv → s.phase = .hook → s' = { s with specBuf := s'.specBuf } →
    (∀ p < 2 * (s.transformLen / 2 + 1), s'.specWord p = s.specWord p) →
    ∃ t t', exec .synthesize s = .next t ∧ exec .synthesize s' = .next t' ∧
      t' = { t with specBuf := t'.specBuf } ∧ ∀ p < 2 * s.transformLen, t'.specWord p = t.specWord p

/-! ## The analyzer -/

/-- R72: ANALYZE refused in the hook window, passing through while not active, and consuming a block. -/
def Obligations.AnalyzeFollowsItsRule : Prop :=
  encode .analyze = 0x00000010 ∧
  ∀ s : State, s.Inv →
    (s.phase = .hook → exec .analyze s = .next { s with err := .sequence }) ∧
    (s.phase = .idle → s.configured = false ∨ s.enable = false →
      ∃ t, exec .analyze s = .next t ∧
        t = { s with
          outBuf := t.outBuf, outValid := true, drop := false
          err := if s.configured then s.err else .notConfigured } ∧
        ∀ n < 4096, t.outWord n = s.inWord n) ∧
    (s.phase = .idle → s.configured = true → s.enable = true →
      ∃ t, exec .analyze s = .next t ∧
        t = { s with histBuf := t.histBuf, specBuf := t.specBuf, phase := .hook, outValid := false } ∧
        (∀ n < s.transformLen - s.blockLen, t.histWord n = s.histWord (n + s.blockLen)) ∧
        (∀ j < s.blockLen, t.histWord (s.transformLen - s.blockLen + j) = s.inWord j) ∧
        (∀ p < 2 * s.transformLen,
          t.specWord p =
            forwardWord s.fwdKind s.transformLen
              (fun q => if q % 2 = 0 then t.histWord (q / 2) else 0x00000000) p) ∧
        SameBytesOutside s.histBuf t.histBuf 0 (4 * s.transformLen) ∧
        SameBytesOutside s.specBuf t.specBuf 0 (8 * s.transformLen))

/-- R98 (in the states R92 allows): while not active, ANALYZE and UPDATE copy IN to OUT bit for bit and change no ring; an
unconfigured core records NOT_CONFIGURED. -/
def Obligations.InactiveCyclePassesThrough : Prop :=
  ∀ (i : Instr) (s : State), i = .analyze ∨ i = .update → s.phaseOk →
    s.configured = false ∨ s.enable = false →
    ∃ t, exec i s = .next t ∧
      t = { s with
        outBuf := t.outBuf, outValid := true, drop := false
        err := if s.configured then s.err else .notConfigured } ∧
      ∀ n < 4096, t.outWord n = s.inWord n

/-- R73: after the t-th active ANALYZE since a CONFIGURE left the ring zero, the ring holds the most recent N samples in
time order, +0.0 for samples before the first. -/
def Obligations.RingHoldsTheLatestSamples : Prop :=
  ∀ (N B : Nat) (s u : Nat → State) (T : Nat),
    (∀ t < T, (s t).phase = .idle ∧ (s t).configured = true ∧ (s t).enable = true ∧
      validSize (s t).cfgN (s t).cfgB = true ∧ (s t).transformLen = N ∧ (s t).blockLen = B ∧
      exec .analyze (s t) = .next (u t)) →
    (∀ t, t + 1 < T → (s (t + 1)).histBuf = (u t).histBuf) → (∀ n < N, (s 0).histWord n = 0) →
    ∀ t < T, ∀ n < N,
      (u t).histWord n =
        if N ≤ (t + 1) * B + n then
          (s (((t + 1) * B + n - N) / B)).inWord (((t + 1) * B + n - N) % B)
        else 0

/-! ## The synthesizer and the cycle -/

/-- R81, R82: SYNTHESIZE refused outside the hook window, and closing the cycle, delivered or dropped. -/
def Obligations.SynthesizeFollowsItsRule : Prop :=
  encode .synthesize = 0x00000012 ∧
  (∀ s : State, s.phase = .idle → exec .synthesize s = .next { s with err := .sequence }) ∧
  ∀ s : State, s.Inv → s.phase = .hook →
    ∃ t, exec .synthesize s = .next t ∧
      t = { s with
        specBuf := t.specBuf, accBuf := t.accBuf, outBuf := t.outBuf, phase := .idle
        outValid := s.outAllocOk, drop := !s.outAllocOk
        dropCount := if s.outAllocOk then s.dropCount else s.dropCount + 1
        err := if s.outAllocOk then s.err else .allocationFailure } ∧
      (∀ p < 2 * s.transformLen,
        t.specWord p = inverseWord s.invKind s.transformLen (rebuilt s.transformLen s.specWord) p) ∧
      (∀ n < s.transformLen - s.blockLen,
        t.accWord n = fadd32 (s.accWord (n + s.blockLen)) (synthesisSample s (n + s.blockLen))) ∧
      (∀ n, s.transformLen - s.blockLen ≤ n → n < s.transformLen → t.accWord n = 0) ∧
      (s.outAllocOk = true → ∀ j < s.blockLen, t.outWord j = fadd32 (s.accWord j) (synthesisSample s j)) ∧
      (s.outAllocOk = false → t.outBuf = s.outBuf) ∧
      SameBytesOutside s.specBuf t.specBuf 0 (8 * s.transformLen) ∧
      SameBytesOutside s.accBuf t.accBuf 0 (4 * s.transformLen) ∧
      SameBytesOutside s.outBuf t.outBuf 0 (4 * s.blockLen)

/-- R83, R82: the block delivered by the t-th SYNTHESIZE since a CONFIGURE left the ring zero is the binary32 sum of the
frames that overlap it, oldest frame first, whether or not the emissions before it were delivered. -/
def Obligations.EmittedBlockIsTheOverlapSum : Prop :=
  ∀ (N B : Nat) (s u : Nat → State) (T : Nat),
    (∀ t < T, (s t).phase = .hook ∧ validSize (s t).cfgN (s t).cfgB = true ∧
      (s t).transformLen = N ∧ (s t).blockLen = B ∧ exec .synthesize (s t) = .next (u t)) →
    (∀ t, t + 1 < T → (s (t + 1)).accBuf = (u t).accBuf) → (∀ n < N, (s 0).accWord n = 0) →
    ∀ t < T, (s t).outAllocOk = true → ∀ j < B,
      (u t).outWord j =
        (List.range (min t (N / B - 1) + 1)).foldl
          (fun sum d => fadd32 sum
            (synthesisSample (s (t - min t (N / B - 1) + d)) ((min t (N / B - 1) - d) * B + j)))
          fpZero

/-- R90: UPDATE on an active core is ANALYZE followed at once by SYNTHESIZE, on any other core exactly ANALYZE's one
pass-through; it is refused in the hook window and always leaves IDLE. -/
def Obligations.UpdateIsAnalyzeThenSynthesize : Prop :=
  encode .update = 0x00000013 ∧
  ∀ s : State,
    (s.phase = .hook → exec .update s = .next { s with err := .sequence }) ∧
    (s.phase = .idle →
      (s.active = false → exec .update s = exec .analyze s) ∧
      (s.active = true → ∃ u, exec .analyze s = .next u ∧ u.phase = .hook ∧ exec .update s = exec .synthesize u) ∧
      ∃ t, exec .update s = .next t ∧ t.phase = .idle)

/-! ## The host port -/

/-- R22, R23, R26, R100: the fields of the computed registers, and the numbers of the six codes. -/
def Obligations.StatusRegistersHaveTheirFields : Prop :=
  ∀ s : State,
    s.statusWord.getLsbD 0 = s.busy ∧ s.statusWord.getLsbD 1 = s.configured ∧
    s.statusWord.getLsbD 2 = s.enable ∧ s.statusWord.getLsbD 3 = decide (s.phase = .hook) ∧
    s.statusWord.getLsbD 4 = (s.configured && s.enable) ∧ s.statusWord.getLsbD 5 = s.drop ∧
    s.statusWord.getLsbD 6 = s.outValid ∧ s.statusWord.extractLsb' 7 25 = 0 ∧
    (s.err = .none → s.errWord = 0x00000000) ∧ (s.err = .sizeUnsupported → s.errWord = 0x00000001) ∧
    (s.err = .notConfigured → s.errWord = 0x00000002) ∧ (s.err = .allocationFailure → s.errWord = 0x00000003) ∧
    (s.err = .badCommand → s.errWord = 0x00000004) ∧ (s.err = .sequence → s.errWord = 0x00000005) ∧
    s.winWord.extractLsb' 0 2 = fieldOfKind s.fwdKind ∧ s.winWord.extractLsb' 2 2 = fieldOfKind s.invKind ∧
    s.winWord.extractLsb' 4 28 = 0

/-- R41, R36, R40, R28, R21: what an aligned 4-byte read returns, and that it has no effect on the core. -/
def Obligations.HostReadFollowsTheMap : Prop :=
  ∀ (s : State) (off : Nat) (rest : List Event),
    s.agenda = .host (.read (Config.base + off) 4) :: rest → s.inReset = false → s.busy = false →
    off % 4 = 0 → off < 0x18000 →
    ∃ v, step s = .next { s with agenda := rest, response := .data v } ∧
      (off = 0x000 → v = 0) ∧ (off = 0x004 → v = s.statusWord) ∧ (off = 0x008 → v = s.errWord) ∧
      (off = 0x00C → v = s.reqFs) ∧ (off = 0x010 → v = s.reqN) ∧ (off = 0x014 → v = s.reqB) ∧
      (off = 0x018 → v = s.cfgN) ∧ (off = 0x01C → v = s.cfgB) ∧ (off = 0x020 → v = s.cfgFs) ∧
      (off = 0x024 → v = s.winWord) ∧ (off = 0x028 → v = s.dropCount) ∧
      (0x02C ≤ off → off < 0x4000 → v = 0) ∧ (∀ i < 4096, off = 0x4000 + 4 * i → v = s.inWord i) ∧
      (∀ i < 4096, off = 0x8000 + 4 * i → v = s.outWord i) ∧ (0xC000 ≤ off → off < 0x10000 → v = 0) ∧
      (∀ i < 8192, off = 0x10000 + 4 * i → v = s.specWord i)

/-- R42, R40, R23, R24: what an aligned 4-byte write does. -/
def Obligations.HostWriteFollowsTheMap : Prop :=
  ∀ (s : State) (off : Nat) (v : Word) (rest : List Event),
    s.agenda = .host (.write (Config.base + off) 4 v) :: rest → s.inReset = false → s.busy = false →
    off % 4 = 0 → off < 0x18000 →
    ∃ t, step s = .next t ∧
      (off = 0x000 → t = { s with agenda := rest, response := .written, busy := true, command := v }) ∧
      (off = 0x008 → t = { s with agenda := rest, response := .written, err := .none }) ∧
      (off = 0x00C → t = { s with agenda := rest, response := .written, reqFs := v }) ∧
      (off = 0x010 → t = { s with agenda := rest, response := .written, reqN := v }) ∧
      (off = 0x014 → t = { s with agenda := rest, response := .written, reqB := v }) ∧
      (off = 0x004 ∨ (0x018 ≤ off ∧ off < 0x4000) ∨ (0x8000 ≤ off ∧ off < 0x10000) →
        t = { s with agenda := rest, response := .written }) ∧
      (∀ i < 4096, off = 0x4000 + 4 * i →
        t = { s with agenda := rest, response := .written, inBuf := t.inBuf } ∧ t.inWord i = v ∧
        SameBytesOutside s.inBuf t.inBuf (4 * i) (4 * i + 4)) ∧
      (∀ i < 8192, off = 0x10000 + 4 * i →
        t = { s with agenda := rest, response := .written, specBuf := t.specBuf } ∧ t.specWord i = v ∧
        SameBytesOutside s.specBuf t.specBuf (4 * i) (4 * i + 4))

/-- R38, R39: an access of another size or at another alignment changes no state of the core and is answered by an error
(that the machine goes on and how the answer is held are the model's choice, log entry 4). -/
def Obligations.BusErrorChangesNoCoreState : Prop :=
  ∀ (s : State) (off size : Nat) (v : Word) (rest : List Event),
    s.inReset = false → s.busy = false → off < 0x18000 → (size ≠ 4 ∨ off % 4 ≠ 0) →
    (s.agenda = .host (.write (Config.base + off) size v) :: rest →
      step s = .next { s with agenda := rest, response := .writeError }) ∧
    (s.agenda = .host (.read (Config.base + off) size) :: rest →
      ∃ d, step s = .next { s with agenda := rest, response := .readError d, freeCount := s.freeCount + 1 })

/-- R117: while a command is in progress a read of STATUS shows BUSY and has no effect; any other access is undefined
and refused (the refusal is the model's choice, log entry 3). -/
def Obligations.BusyAllowsOnlyStatusReads : Prop :=
  ∀ (s : State) (off size : Nat) (v : Word) (rest : List Event),
    s.inReset = false → s.busy = true → off < 0x18000 →
    (s.agenda = .host (.read (Config.base + 4) 4) :: rest →
      step s = .next { s with agenda := rest, response := .data s.statusWord } ∧ s.statusWord.getLsbD 0 = true) ∧
    (s.agenda = .host (.read (Config.base + off) size) :: rest → off ≠ 4 ∨ size ≠ 4 →
      step s = .refused .busyAccess) ∧
    (s.agenda = .host (.write (Config.base + off) size v) :: rest → step s = .refused .busyAccess)

/-- R37: the bytes of a word lie in little-endian lanes, and a word write changes no other byte. -/
def Obligations.WordsLieInLittleEndianLanes : Prop :=
  ∀ (m : Memory) (i : Nat) (w : Word),
    (∀ b < 4, (m.setWord i w).getByte (4 * i + b) = w.extractLsb' (8 * b) 8) ∧
    (m.setWord i w).getWord i = w ∧ SameBytesOutside m (m.setWord i w) (4 * i) (4 * i + 4)

/-! ## Reset and the invariant -/

/-- R114: asserting reset abandons the command in progress, accesses in reset are ignored, and the released core has the
reset values of every register (what such an access answers is the model's choice, log entries 5 and 13). -/
def Obligations.ResetFollowsItsRule : Prop :=
  (∀ (s : State) (rest : List Event), s.agenda = .resetInput true :: rest →
    step s = .next { s with agenda := rest, inReset := true, busy := false, command := 0 }) ∧
  (∀ (s : State) (a : Access) (rest : List Event), s.agenda = .host a :: rest → s.inReset = true →
    (¬ InWindow (addressOf a) → step s = .fault .outsideWindow) ∧
    (InWindow (addressOf a) →
      ∃ t, step s = .next t ∧
        t = { s with agenda := rest, response := t.response, freeCount := t.freeCount })) ∧
  (∀ (s : State) (rest : List Event), s.agenda = .resetInput false :: rest → s.inReset = true →
    ∃ t, step s = .next t ∧
      t = { State.reset with
        agenda := rest, response := s.response, outAllocOk := s.outAllocOk, freeCount := t.freeCount
        specBuf := t.specBuf, inBuf := t.inBuf, outBuf := t.outBuf, histBuf := t.histBuf, accBuf := t.accBuf } ∧
      t.statusWord = 0x00000004 ∧ t.winWord = 0x00000001 ∧ t.errWord = 0 ∧ t.dropCount = 0)

/-- Section 5 of 10_state.md: the reset value of every register. -/
def Obligations.ResetValuesOfTheRegisters : Prop :=
  State.reset.statusWord = 0x00000004 ∧ State.reset.errWord = 0x00000000 ∧
  State.reset.reqFs = 0 ∧ State.reset.reqN = 0 ∧ State.reset.reqB = 0 ∧ State.reset.cfgN = 0 ∧
  State.reset.cfgB = 0 ∧ State.reset.cfgFs = 0 ∧ State.reset.winWord = 0x00000001 ∧
  State.reset.dropCount = 0 ∧ State.reset.phase = .idle ∧ State.reset.busy = false

/-- The state after reset meets the invariant. -/
def Obligations.ResetMeetsTheInvariant : Prop := State.reset.Inv

/-- R25, R33, R92 and the canonical form: every step keeps the invariant, from every state that meets it. -/
def Obligations.StepKeepsTheInvariant : Prop :=
  ∀ s t : State, s.Inv → step s = .next t → t.Inv
end

