-- ==== Sys2Proof/Laws/PerInstr.lean ====
section
/-! SUPPORT. The per-instruction family RoundTrip: the decoder reads back what the encoder writes. -/

namespace Sys2Proof.Laws.RoundTrip

/-- An instruction that has an encoding is read back from it. -/
def Statement (i : Instr) : Prop := i.wellFormed = true → decode (encode i) = some i

theorem nop : Statement .nop := fun _ => by decide
theorem configure : Statement .configure := fun _ => by decide
theorem setWindow (dir : Dir) (kind : BitVec 2) : Statement (.setWindow dir kind) := by
  unfold Statement; revert kind; cases dir <;> decide
theorem enable (en : Bool) : Statement (.enable en) := fun _ => by cases en <;> decide
theorem analyze : Statement .analyze := fun _ => by decide
theorem rebuild : Statement .rebuild := fun _ => by decide
theorem synthesize : Statement .synthesize := fun _ => by decide
theorem update : Statement .update := fun _ => by decide
theorem xformFwd : Statement .xformFwd := fun _ => by decide
theorem xformInv : Statement .xformInv := fun _ => by decide

end Sys2Proof.Laws.RoundTrip
end

