-- ==== Sys2Proof/Laws/Encoding.lean ====
section
/-! SUPPORT. The fields of a command word: a word is its four fields, and `formatC` sets them. -/

namespace Sys2Proof

theorem getLsbD_formatC (o : BitVec 8) (a : Bool) (k : BitVec 2) (i : Nat) :
    (formatC o a k).getLsbD i =
      if i < 8 then o.getLsbD i else if i = 8 then a else if i < 11 then k.getLsbD (i - 9) else false := by
  simp only [formatC, BitVec.getLsbD_append, BitVec.getLsbD_ofBool, BitVec.getLsbD_zero]
  by_cases h1 : i < 8
  · simp [h1]
  · by_cases h2 : i = 8
    · simp [h2]
    · by_cases h3 : i < 11
      · simp only [h1, h2, h3, show ¬ (i - 8 < 1) by omega, show i - 9 < 2 by omega,
          show i - 8 - 1 = i - 9 by omega, if_false, if_true]
      · simp [h1, h2, h3, show ¬ (i - 8 < 1) by omega, show ¬ (i - 8 - 1 < 2) by omega]

/-- The fields of an encoded word (R51). -/
theorem fields_formatC (o : BitVec 8) (a : Bool) (k : BitVec 2) :
    fieldOpc (formatC o a k) = o ∧ fieldA (formatC o a k) = a ∧ fieldKind (formatC o a k) = k ∧
    fieldReserved (formatC o a k) = 0 := by
  refine ⟨?_, ?_, ?_, ?_⟩
  · apply BitVec.eq_of_getLsbD_eq
    intro i hi
    simp [fieldOpc, BitVec.getLsbD_extractLsb', getLsbD_formatC, hi, -BitVec.getLsbD_eq_getElem]
  · simp [fieldA, getLsbD_formatC, -BitVec.getLsbD_eq_getElem]
  · apply BitVec.eq_of_getLsbD_eq
    intro i hi
    simp [fieldKind, BitVec.getLsbD_extractLsb', getLsbD_formatC, hi, -BitVec.getLsbD_eq_getElem,
      show ¬ (9 + i < 8) by omega, show ¬ (9 + i = 8) by omega, show 9 + i < 11 by omega]
  · apply BitVec.eq_of_getLsbD_eq
    intro i hi
    simp [fieldReserved, BitVec.getLsbD_extractLsb', getLsbD_formatC, -BitVec.getLsbD_eq_getElem,
      show ¬ (11 + i < 8) by omega, show ¬ (11 + i = 8) by omega, show ¬ (11 + i < 11) by omega]

/-- A word whose reserved bits are 0 is made of its fields (R51). -/
theorem formatC_fields (w : Word) (h : fieldReserved w = 0) :
    formatC (fieldOpc w) (fieldA w) (fieldKind w) = w := by
  apply BitVec.eq_of_getLsbD_eq
  intro i hi
  rw [getLsbD_formatC]
  simp only [fieldOpc, fieldA, fieldKind, BitVec.getLsbD_extractLsb']
  by_cases h1 : i < 8
  · simp [h1]
  · by_cases h2 : i = 8
    · simp [h2]
    · by_cases h3 : i < 11
      · simp [h1, h2, h3, show i - 9 < 2 by omega, show 9 + (i - 9) = i by omega]
      · have hb : (fieldReserved w).getLsbD (i - 11) = false := by rw [h]; simp
        simp only [fieldReserved, BitVec.getLsbD_extractLsb', show i - 11 < 21 by omega, decide_true,
          Bool.true_and, show 11 + (i - 11) = i by omega] at hb
        simp only [h1, h2, h3, if_false, hb]

end Sys2Proof
end

