-- ==== Sys2Proof/Laws/Float.lean ====
section
/-! SUPPORT. What packing and rounding do: the fields of a packed word, and that `roundShift` and `roundMag` round to
nearest, ties to even (spec/00_scope.md R11). -/

namespace Sys2Proof.Machine

/-! ## Packed words -/

theorem fpInfBits_eq : fpInfBits = 255 * 2 ^ 23 := by decide

theorem toNat_fpPack {sign : Bool} {bits : Nat} (h : bits ≤ fpInfBits) :
    (fpPack sign bits).toNat = (if sign then 2 ^ 31 else 0) + bits := by
  unfold fpPack
  unfold fpInfBits at h
  rw [BitVec.toNat_ofNat]
  cases sign <;> simp <;> omega

theorem fpSign_fpPack {sign : Bool} {bits : Nat} (h : bits ≤ fpInfBits) :
    fpSign (fpPack sign bits) = sign := by
  have ht := toNat_fpPack (sign := sign) h
  unfold fpInfBits at h
  unfold fpSign
  rw [BitVec.getLsbD, ht, Nat.testBit_eq_decide_div_mod_eq]
  cases sign <;> simp <;> omega

theorem fpExp_fpPack {sign : Bool} {bits : Nat} (h : bits ≤ fpInfBits) :
    fpExp (fpPack sign bits) = bits / 2 ^ 23 := by
  have ht := toNat_fpPack (sign := sign) h
  unfold fpInfBits at h
  unfold fpExp
  rw [BitVec.extractLsb'_toNat, ht, Nat.shiftRight_eq_div_pow]
  cases sign <;> simp <;> omega

theorem fpFrac_fpPack {sign : Bool} {bits : Nat} (h : bits ≤ fpInfBits) :
    fpFrac (fpPack sign bits) = bits % 2 ^ 23 := by
  have ht := toNat_fpPack (sign := sign) h
  unfold fpInfBits at h
  unfold fpFrac
  rw [BitVec.extractLsb'_toNat, ht]
  cases sign <;> simp
  omega

theorem fpIsFinite_fpPack {sign : Bool} {bits : Nat} (h : bits < fpInfBits) :
    fpIsFinite (fpPack sign bits) = true := by
  unfold fpIsFinite
  rw [fpExp_fpPack h.le]
  unfold fpInfBits at h
  simp
  omega

theorem lsb_fpPack {sign : Bool} {bits : Nat} (h : bits ≤ fpInfBits) :
    (fpPack sign bits).getLsbD 0 = decide (bits % 2 = 1) := by
  rw [BitVec.getLsbD, toNat_fpPack h, Nat.testBit_eq_decide_div_mod_eq]
  cases sign <;> simp
  omega

/-- The value is odd in the sign. -/
theorem fpUnits_fpPack {sign : Bool} {bits : Nat} (h : bits ≤ fpInfBits) :
    fpUnits (fpPack sign bits) = (if sign then -1 else 1) * (fpMag (fpPack false bits) : Int) := by
  have hm : fpMag (fpPack sign bits) = fpMag (fpPack false bits) := by
    unfold fpMag
    rw [fpExp_fpPack h, fpExp_fpPack h, fpFrac_fpPack h, fpFrac_fpPack h]
  unfold fpUnits
  rw [hm, fpSign_fpPack h]
  cases sign <;> simp

/-- A finite word's magnitude is a 24-bit significand times a power of two. -/
theorem fpMag_eq_significand (w : Word) : ∃ s e, s < 2 ^ 24 ∧ fpMag w = s * 2 ^ e := by
  have hf : fpFrac w < 2 ^ 23 := (w.extractLsb' 0 23).isLt
  unfold fpMag
  split
  · exact ⟨fpFrac w, 0, by omega, by simp⟩
  · exact ⟨2 ^ 23 + fpFrac w, fpExp w - 1, by omega, rfl⟩

/-! ## Rounding -/

theorem roundShift_cases (m sh : Nat) :
    roundShift m sh = m / 2 ^ sh ∧ 2 * (m % 2 ^ sh) ≤ 2 ^ sh ∧ (2 * (m % 2 ^ sh) = 2 ^ sh → m / 2 ^ sh % 2 = 0) ∨
    roundShift m sh = m / 2 ^ sh + 1 ∧ 2 ^ sh ≤ 2 * (m % 2 ^ sh) ∧
      (2 * (m % 2 ^ sh) = 2 ^ sh → m / 2 ^ sh % 2 = 1) := by
  unfold roundShift
  simp only
  split
  · right; refine ⟨rfl, ?_, ?_⟩ <;> omega
  · left; refine ⟨rfl, ?_, ?_⟩ <;> omega

/-- No multiple of `2^sh` is nearer to `m` than the rounded one, and one as near only if the rounded is even. -/
theorem roundShift_nearest (m sh : Nat) (c : Int) :
    |(roundShift m sh : Int) * 2 ^ sh - m| ≤ |c * 2 ^ sh - m| ∧
    (|(roundShift m sh : Int) * 2 ^ sh - m| = |c * 2 ^ sh - m| → c ≠ roundShift m sh →
      roundShift m sh % 2 = 0) := by
  have hS : (0 : Int) < 2 ^ sh := by positivity
  have hm := Nat.div_add_mod m (2 ^ sh)
  have hr := Nat.mod_lt m (show 0 < 2 ^ sh by positivity)
  have hS' : (((2 ^ sh : Nat)) : Int) = 2 ^ sh := by push_cast; rfl
  have hc := roundShift_cases m sh
  generalize roundShift m sh = q at *
  generalize m / 2 ^ sh = Q at *
  generalize m % 2 ^ sh = r at *
  rw [← hS'] at hS ⊢
  generalize 2 ^ sh = S at *
  subst hm
  push_cast
  obtain ⟨rfl, h1, h2⟩ | ⟨rfl, h1, h2⟩ := hc
  · obtain ⟨d, rfl⟩ : ∃ d : Int, c = q + d := ⟨c - q, by ring⟩
    have e1 : (q : Int) * S - (S * q + r) = -r := by ring
    have e2 : ((q : Int) + d) * S - (S * q + r) = d * S - r := by ring
    rw [e1, e2, abs_neg, abs_of_nonneg (by positivity : (0 : Int) ≤ r)]
    rcases lt_trichotomy d 0 with hd | rfl | hd
    · have : d * S ≤ -1 * S := mul_le_mul_of_nonneg_right (by omega) hS.le
      rw [abs_of_nonpos (by omega)]
      omega
    · simp
    · have : 1 * S ≤ d * S := mul_le_mul_of_nonneg_right (by omega) hS.le
      rw [abs_of_nonneg (by omega)]
      exact ⟨by omega, fun h _ => h2 (by omega)⟩
  · obtain ⟨d, rfl⟩ : ∃ d : Int, c = Q + 1 + d := ⟨c - Q - 1, by ring⟩
    have e1 : ((Q : Int) + 1) * S - (S * Q + r) = S - r := by ring
    have e2 : ((Q : Int) + 1 + d) * S - (S * Q + r) = d * S + (S - r) := by ring
    simp only [Nat.cast_add, Nat.cast_one]
    rw [e1, e2, abs_of_nonneg (by omega : (0 : Int) ≤ S - r)]
    rcases lt_trichotomy d 0 with hd | rfl | hd
    · have : d * S ≤ -1 * S := mul_le_mul_of_nonneg_right (by omega) hS.le
      rw [abs_of_nonpos (by omega)]
      exact ⟨by omega, fun h _ => by have := h2 (by omega); omega⟩
    · rw [zero_mul, zero_add, abs_of_nonneg (by omega : (0 : Int) ≤ S - r)]
      exact ⟨le_refl _, fun _ h => absurd (by simp) h⟩
    · have : 1 * S ≤ d * S := mul_le_mul_of_nonneg_right (by omega) hS.le
      rw [abs_of_nonneg (by omega)]
      omega

/-- The two ways `roundingShift` comes about: the significand keeps 24 bits, or all its bits above the smallest
subnormal. -/
theorem roundingShift_cases (m k : Nat) :
    roundingShift m k = k ∧ m < 2 ^ (k + 24) ∨
    k < roundingShift m k ∧ 2 ^ (roundingShift m k + 23) ≤ m ∧ m < 2 ^ (roundingShift m k + 24) := by
  unfold roundingShift
  have hlt : m < 2 ^ (m.log2 + 1) := Nat.lt_log2_self
  by_cases h : m.log2 + 1 - 24 ≤ k
  · left
    rw [max_eq_right h]
    exact ⟨rfl, hlt.trans_le (Nat.pow_le_pow_right (by omega) (by omega))⟩
  · right
    rw [max_eq_left (by omega)]
    have hm : m ≠ 0 := by rintro rfl; simp at h
    refine ⟨by omega, ?_, ?_⟩
    · rw [show m.log2 + 1 - 24 + 23 = m.log2 by omega]
      exact Nat.log2_self_le hm
    · rwa [show m.log2 + 1 - 24 + 24 = m.log2 + 1 by omega]

theorem roundShift_le {m sh n : Nat} (h : m < 2 ^ (sh + n)) : roundShift m sh ≤ 2 ^ n := by
  have hq : m / 2 ^ sh < 2 ^ n := Nat.div_lt_of_lt_mul (by rwa [← pow_add])
  obtain ⟨e, -⟩ | ⟨e, -⟩ := roundShift_cases m sh <;> omega

theorem le_roundShift {m sh n : Nat} (h : 2 ^ (sh + n) ≤ m) : 2 ^ n ≤ roundShift m sh := by
  have hq : 2 ^ n ≤ m / 2 ^ sh := (Nat.le_div_iff_mul_le (by positivity)).2 (by rwa [← pow_add, add_comm])
  obtain ⟨e, -⟩ | ⟨e, -⟩ := roundShift_cases m sh <;> omega

theorem roundMag_le (m k : Nat) : roundMag m k ≤ fpInfBits := min_le_right _ _

/-- Where the result stays finite, its magnitude is the rounded significand at its place, and its last bit the
significand's. -/
theorem fpMag_roundMag {m k : Nat} (h : roundMag m k < fpInfBits) :
    fpMag (fpPack false (roundMag m k)) = roundShift m (roundingShift m k) * 2 ^ (roundingShift m k - k) ∧
    roundMag m k % 2 = roundShift m (roundingShift m k) % 2 := by
  have hb : roundMag m k = (roundingShift m k - k) * 2 ^ 23 + roundShift m (roundingShift m k) := by
    unfold roundMag at h ⊢
    exact min_eq_left (by simp only [min_lt_iff, lt_irrefl, or_false] at h; exact h.le)
  unfold fpMag
  rw [fpExp_fpPack h.le, fpFrac_fpPack h.le, hb]
  refine ⟨?_, by omega⟩
  have hc := roundingShift_cases m k
  have hu : ∀ n, m < 2 ^ (roundingShift m k + n) → roundShift m (roundingShift m k) ≤ 2 ^ n :=
    fun _ => roundShift_le
  have hl' : ∀ n, 2 ^ (roundingShift m k + n) ≤ m → 2 ^ n ≤ roundShift m (roundingShift m k) :=
    fun _ => le_roundShift
  clear hb h
  generalize roundShift m (roundingShift m k) = q at *
  generalize roundingShift m k = sh at *
  obtain ⟨rfl, hm⟩ | ⟨hk, hl, hm⟩ := hc
  · have hq := hu 24 hm
    rw [Nat.sub_self, zero_mul, zero_add, pow_zero, mul_one]
    rcases Nat.lt_or_ge q (2 ^ 23) with h1 | h1
    · rw [if_pos (by omega)]; omega
    · rcases Nat.lt_or_ge q (2 ^ 24) with h2 | h2
      · rw [if_neg (by omega), show q / 2 ^ 23 - 1 = 0 by omega]; omega
      · have : q = 2 ^ 24 := by omega
        subst this; decide
  · have hq := hu 24 hm
    have hq' := hl' 23 hl
    generalize sh - k = e
    rcases Nat.lt_or_ge q (2 ^ 24) with h2 | h2
    · rw [if_neg (by omega), show (e * 2 ^ 23 + q) / 2 ^ 23 - 1 = e by omega]
      congr 1; omega
    · have : q = 2 ^ 24 := by omega
      subst this
      rw [if_neg (by omega), show (e * 2 ^ 23 + 2 ^ 24) / 2 ^ 23 - 1 = e + 1 by omega,
        show (e * 2 ^ 23 + 2 ^ 24) % 2 ^ 23 = 0 by omega, pow_succ]
      ring

/-- Overflow begins at the midpoint between the greatest finite magnitude and 2^128. -/
theorem roundMag_lt_iff (m k : Nat) : roundMag m k < fpInfBits ↔ m < (2 ^ 25 - 1) * 2 ^ (252 + k) := by
  have hr : roundMag m k < fpInfBits ↔
      (roundingShift m k - k) * 2 ^ 23 + roundShift m (roundingShift m k) < fpInfBits := by
    unfold roundMag
    simp only [min_lt_iff, lt_irrefl, or_false]
  rw [hr, fpInfBits_eq]
  have hc := roundingShift_cases m k
  have hu : ∀ n, m < 2 ^ (roundingShift m k + n) → roundShift m (roundingShift m k) ≤ 2 ^ n :=
    fun _ => roundShift_le
  have hl' : ∀ n, 2 ^ (roundingShift m k + n) ≤ m → 2 ^ n ≤ roundShift m (roundingShift m k) :=
    fun _ => le_roundShift
  have hs := roundShift_cases m (roundingShift m k)
  clear hr
  generalize roundShift m (roundingShift m k) = q at *
  generalize roundingShift m k = sh at *
  have mono : ∀ a b, a ≤ b → 2 ^ a ≤ 2 ^ b := fun a b h => Nat.pow_le_pow_right (by omega) h
  have hP : (2 ^ 25 - 1) * 2 ^ (252 + k) ≤ 2 ^ (277 + k) := by
    rw [show 277 + k = 25 + (252 + k) by omega, pow_add 2 25]
    exact Nat.mul_le_mul_right _ (by norm_num)
  have hP' : 2 ^ (276 + k) ≤ (2 ^ 25 - 1) * 2 ^ (252 + k) := by
    rw [show 276 + k = 24 + (252 + k) by omega, pow_add 2 24]
    exact Nat.mul_le_mul_right _ (by norm_num)
  obtain ⟨rfl, hm⟩ | ⟨hk, hl, hm⟩ := hc
  · have hq := hu 24 hm
    exact iff_of_true (by omega) (hm.trans_le ((mono _ _ (by omega)).trans hP'))
  · have hq := hu 24 hm
    have hq' := hl' 23 hl
    rcases lt_trichotomy (sh - k) 253 with he | he | he
    · exact iff_of_true (by omega) (hm.trans_le ((mono _ _ (by omega)).trans hP'))
    · have hS : 2 * 2 ^ (252 + k) = 2 ^ sh := by
        rw [← pow_succ']; congr 1; omega
      have hQ : m / 2 ^ sh < 2 ^ 24 := Nat.div_lt_of_lt_mul (by rwa [← pow_add])
      have hd := Nat.div_add_mod m (2 ^ sh)
      have hr := Nat.mod_lt m (show 0 < 2 ^ sh by positivity)
      rw [he]
      clear hu hl' hl hm mono hP hP' hk he
      generalize m / 2 ^ sh = Q at *
      generalize m % 2 ^ sh = r at *
      generalize 2 ^ (252 + k) = H at *
      generalize 2 ^ sh = S at *
      subst hd
      constructor
      · intro h1
        have hQ' : Q ≤ 2 ^ 24 - 1 := by omega
        rcases Nat.lt_or_ge Q (2 ^ 24 - 1) with h2 | h2
        · have : S * Q ≤ S * (2 ^ 24 - 2) := Nat.mul_le_mul_left _ (by omega)
          omega
        · have hQ2 : Q = 16777215 := by omega
          have hp : S * Q = 16777215 * S := by rw [hQ2, Nat.mul_comm]
          omega
      · intro h1
        rcases Nat.lt_or_ge Q (2 ^ 24 - 1) with h2 | h2
        · omega
        · have hQ2 : Q = 16777215 := by omega
          have hp : S * Q = 16777215 * S := by rw [hQ2, Nat.mul_comm]
          omega
    · refine iff_of_false (by omega) ?_
      have := (mono (277 + k) (sh + 23) (by omega)).trans hl
      omega

/-- No finite word's magnitude is nearer to `m * 2^-k` units than the rounded one, and one as near only if the
rounded is even. -/
theorem roundMag_nearest {m k : Nat} (h : roundMag m k < fpInfBits) (v : Word) :
    |(fpMag (fpPack false (roundMag m k)) : Int) * 2 ^ k - m| ≤ |(fpMag v : Int) * 2 ^ k - m| ∧
    (|(fpMag (fpPack false (roundMag m k)) : Int) * 2 ^ k - m| = |(fpMag v : Int) * 2 ^ k - m| →
      fpMag v ≠ fpMag (fpPack false (roundMag m k)) → roundMag m k % 2 = 0) := by
  obtain ⟨hmag, hpar⟩ := fpMag_roundMag h
  rw [hmag, hpar]
  have hk : k ≤ roundingShift m k := le_max_right _ _
  have hmul : ((roundShift m (roundingShift m k) * 2 ^ (roundingShift m k - k) : Nat) : Int) * 2 ^ k =
      (roundShift m (roundingShift m k) : Int) * 2 ^ roundingShift m k := by
    push_cast
    rw [mul_assoc, ← pow_add, Nat.sub_add_cancel hk]
  rw [hmul]
  obtain ⟨s, e, hs, hv⟩ := fpMag_eq_significand v
  by_cases hd : roundingShift m k - k ≤ e
  · have hc : (fpMag v : Int) * 2 ^ k = ((s * 2 ^ (e - (roundingShift m k - k)) : Nat) : Int) * 2 ^ roundingShift m k := by
      rw [hv]
      push_cast
      rw [mul_assoc, mul_assoc, ← pow_add, ← pow_add]
      congr 2; omega
    rw [hc]
    refine ⟨(roundShift_nearest _ _ _).1, fun he hne => (roundShift_nearest _ _ _).2 he fun hq => hne ?_⟩
    have hq' : s * 2 ^ (e - (roundingShift m k - k)) = roundShift m (roundingShift m k) := by exact_mod_cast hq
    rw [hv, ← hq', mul_assoc, ← pow_add]
    congr 2; omega
  · obtain ⟨hk', -⟩ | ⟨-, hl, -⟩ := roundingShift_cases m k
    · omega
    · have hlt : (fpMag v : Int) * 2 ^ k < (2 ^ 23 : Int) * 2 ^ roundingShift m k := by
        have : fpMag v * 2 ^ k < 2 ^ 23 * 2 ^ roundingShift m k := by
          rw [hv]
          calc s * 2 ^ e * 2 ^ k < 2 ^ 24 * 2 ^ e * 2 ^ k := by gcongr
            _ = 2 ^ (24 + e + k) := by rw [← pow_add, ← pow_add]
            _ ≤ 2 ^ (23 + roundingShift m k) := Nat.pow_le_pow_right (by omega) (by omega)
            _ = _ := by rw [pow_add]
        exact_mod_cast this
      have hle : (2 ^ 23 : Int) * 2 ^ roundingShift m k ≤ m := by
        have : 2 ^ 23 * 2 ^ roundingShift m k ≤ m := by rwa [← pow_add, add_comm]
        exact_mod_cast this
      have h1 := (roundShift_nearest m (roundingShift m k) (2 ^ 23)).1
      rw [abs_of_nonpos (by omega : (2 ^ 23 : Int) * 2 ^ roundingShift m k - m ≤ 0)] at h1
      have h2 : |(fpMag v : Int) * 2 ^ k - m| = m - (fpMag v : Int) * 2 ^ k := by
        rw [abs_of_nonpos (by omega)]; ring
      rw [h2]
      constructor
      · omega
      · intro h3; omega

/-! ## NaN results -/

/-- Whatever its free bits, NAN_OUT is a NaN with bit 22 set (R11, log entry 8). -/
theorem nanOut_quiet (op : Config.FpOp) (a b : Word) :
    fpIsNaN (Config.nanOut op a b) = true ∧ (Config.nanOut op a b).getLsbD 22 = true := by
  unfold Config.nanOut
  generalize Config.nanBits op a b = w
  have he : (w ||| 0x7FC00000).extractLsb' 23 8 = 255#8 := by
    apply BitVec.eq_of_getLsbD_eq
    intro i hi
    interval_cases i <;> simp
  have hq : (w ||| 0x7FC00000).getLsbD 22 = true := by simp
  have hf : (w ||| 0x7FC00000).extractLsb' 0 23 ≠ 0#23 := by
    intro h
    have := congrArg (fun v => v.getLsbD 22) h
    simp at this
  refine ⟨?_, hq⟩
  unfold fpIsNaN fpExp fpFrac
  rw [he]
  simpa [BitVec.toNat_eq] using hf

/-! ## Operations on finite words -/

theorem not_special_of_finite {a : Word} (h : fpIsFinite a = true) : fpIsNaN a = false ∧ fpIsInf a = false := by
  simp only [fpIsFinite, bne_iff_ne] at h
  simp [fpIsNaN, fpIsInf, h]

/-- The sum of finite words (R11). -/
theorem fadd32_of_finite {a b : Word} (ha : fpIsFinite a = true) (hb : fpIsFinite b = true) :
    fadd32 a b =
      if fpUnits a + fpUnits b = 0 then fpPack (fpSign a && fpSign b) 0
      else fpPack (decide (fpUnits a + fpUnits b < 0)) (roundMag (fpUnits a + fpUnits b).natAbs 0) := by
  simp [fadd32, not_special_of_finite ha, not_special_of_finite hb]

/-- The product of finite words (R11). -/
theorem fmul32_of_finite {a b : Word} (ha : fpIsFinite a = true) (hb : fpIsFinite b = true) :
    fmul32 a b = fpPack (fpSign a != fpSign b) (roundMag (fpMag a * fpMag b) 149) := by
  simp [fmul32, not_special_of_finite ha, not_special_of_finite hb]

theorem cosTail_le (x2 fuel k t : Nat) : cosTail x2 fuel k t ≤ t := by
  cases fuel
  · exact Nat.zero_le _
  · exact Nat.sub_le _ _

/-- Every coefficient is a finite word without sign (R60). -/
theorem hannWord_finite (N i : Nat) : fpIsFinite (hannWord N i) = true ∧ fpSign (hannWord N i) = false := by
  refine ⟨fpIsFinite_fpPack ((roundMag_lt_iff _ _).2 ?_), fpSign_fpPack (roundMag_le _ _)⟩
  have hx : min i (N - i) * 2 * piUnits / N ≤ piUnits := by
    apply Nat.div_le_of_le_mul
    exact Nat.mul_le_mul_right _ (by omega)
  have hx2 := Nat.div_le_div_right (c := 2 ^ 149) (Nat.mul_le_mul hx hx)
  have hc := cosTail_le (mulUnits (min i (N - i) * 2 * piUnits / N) (min i (N - i) * 2 * piUnits / N)) 32 1
    (mulUnits (min i (N - i) * 2 * piUnits / N) (min i (N - i) * 2 * piUnits / N) / 2)
  have hb : hannUnits N i ≤ mulUnits piUnits piUnits := by
    unfold hannUnits
    simp only
    unfold mulUnits at hc ⊢
    generalize cosTail _ _ _ _ = c at *
    omega
  exact hb.trans_lt (by decide +kernel)

end Sys2Proof.Machine
end

