-- ==== Sys2Proof/Laws/State.lean ====
section
/-! SUPPORT. One lemma per field per update of the state, so that no proof unfolds an update. -/

namespace Sys2Proof.Machine

/-! ## record -/

@[simp] theorem record_phase (c : ErrCode) (s : State) : (record c s).phase = s.phase := rfl
@[simp] theorem record_busy (c : ErrCode) (s : State) : (record c s).busy = s.busy := rfl
@[simp] theorem record_command (c : ErrCode) (s : State) : (record c s).command = s.command := rfl
@[simp] theorem record_configured (c : ErrCode) (s : State) : (record c s).configured = s.configured := rfl
@[simp] theorem record_enable (c : ErrCode) (s : State) : (record c s).enable = s.enable := rfl
@[simp] theorem record_outValid (c : ErrCode) (s : State) : (record c s).outValid = s.outValid := rfl
@[simp] theorem record_drop (c : ErrCode) (s : State) : (record c s).drop = s.drop := rfl
@[simp] theorem record_err (c : ErrCode) (s : State) : (record c s).err = c := rfl
@[simp] theorem record_reqFs (c : ErrCode) (s : State) : (record c s).reqFs = s.reqFs := rfl
@[simp] theorem record_reqN (c : ErrCode) (s : State) : (record c s).reqN = s.reqN := rfl
@[simp] theorem record_reqB (c : ErrCode) (s : State) : (record c s).reqB = s.reqB := rfl
@[simp] theorem record_cfgN (c : ErrCode) (s : State) : (record c s).cfgN = s.cfgN := rfl
@[simp] theorem record_cfgB (c : ErrCode) (s : State) : (record c s).cfgB = s.cfgB := rfl
@[simp] theorem record_cfgFs (c : ErrCode) (s : State) : (record c s).cfgFs = s.cfgFs := rfl
@[simp] theorem record_fwdKind (c : ErrCode) (s : State) : (record c s).fwdKind = s.fwdKind := rfl
@[simp] theorem record_invKind (c : ErrCode) (s : State) : (record c s).invKind = s.invKind := rfl
@[simp] theorem record_dropCount (c : ErrCode) (s : State) : (record c s).dropCount = s.dropCount := rfl
@[simp] theorem record_specBuf (c : ErrCode) (s : State) : (record c s).specBuf = s.specBuf := rfl
@[simp] theorem record_inBuf (c : ErrCode) (s : State) : (record c s).inBuf = s.inBuf := rfl
@[simp] theorem record_outBuf (c : ErrCode) (s : State) : (record c s).outBuf = s.outBuf := rfl
@[simp] theorem record_histBuf (c : ErrCode) (s : State) : (record c s).histBuf = s.histBuf := rfl
@[simp] theorem record_accBuf (c : ErrCode) (s : State) : (record c s).accBuf = s.accBuf := rfl
@[simp] theorem record_inReset (c : ErrCode) (s : State) : (record c s).inReset = s.inReset := rfl
@[simp] theorem record_outAllocOk (c : ErrCode) (s : State) : (record c s).outAllocOk = s.outAllocOk := rfl
@[simp] theorem record_agenda (c : ErrCode) (s : State) : (record c s).agenda = s.agenda := rfl
@[simp] theorem record_response (c : ErrCode) (s : State) : (record c s).response = s.response := rfl
@[simp] theorem record_freeCount (c : ErrCode) (s : State) : (record c s).freeCount = s.freeCount := rfl

/-! ## clearError -/

@[simp] theorem clearError_phase (s : State) : (clearError s).phase = s.phase := rfl
@[simp] theorem clearError_busy (s : State) : (clearError s).busy = s.busy := rfl
@[simp] theorem clearError_command (s : State) : (clearError s).command = s.command := rfl
@[simp] theorem clearError_configured (s : State) : (clearError s).configured = s.configured := rfl
@[simp] theorem clearError_enable (s : State) : (clearError s).enable = s.enable := rfl
@[simp] theorem clearError_outValid (s : State) : (clearError s).outValid = s.outValid := rfl
@[simp] theorem clearError_drop (s : State) : (clearError s).drop = s.drop := rfl
@[simp] theorem clearError_err (s : State) : (clearError s).err = .none := rfl
@[simp] theorem clearError_reqFs (s : State) : (clearError s).reqFs = s.reqFs := rfl
@[simp] theorem clearError_reqN (s : State) : (clearError s).reqN = s.reqN := rfl
@[simp] theorem clearError_reqB (s : State) : (clearError s).reqB = s.reqB := rfl
@[simp] theorem clearError_cfgN (s : State) : (clearError s).cfgN = s.cfgN := rfl
@[simp] theorem clearError_cfgB (s : State) : (clearError s).cfgB = s.cfgB := rfl
@[simp] theorem clearError_cfgFs (s : State) : (clearError s).cfgFs = s.cfgFs := rfl
@[simp] theorem clearError_fwdKind (s : State) : (clearError s).fwdKind = s.fwdKind := rfl
@[simp] theorem clearError_invKind (s : State) : (clearError s).invKind = s.invKind := rfl
@[simp] theorem clearError_dropCount (s : State) : (clearError s).dropCount = s.dropCount := rfl
@[simp] theorem clearError_specBuf (s : State) : (clearError s).specBuf = s.specBuf := rfl
@[simp] theorem clearError_inBuf (s : State) : (clearError s).inBuf = s.inBuf := rfl
@[simp] theorem clearError_outBuf (s : State) : (clearError s).outBuf = s.outBuf := rfl
@[simp] theorem clearError_histBuf (s : State) : (clearError s).histBuf = s.histBuf := rfl
@[simp] theorem clearError_accBuf (s : State) : (clearError s).accBuf = s.accBuf := rfl
@[simp] theorem clearError_inReset (s : State) : (clearError s).inReset = s.inReset := rfl
@[simp] theorem clearError_outAllocOk (s : State) : (clearError s).outAllocOk = s.outAllocOk := rfl
@[simp] theorem clearError_agenda (s : State) : (clearError s).agenda = s.agenda := rfl
@[simp] theorem clearError_response (s : State) : (clearError s).response = s.response := rfl
@[simp] theorem clearError_freeCount (s : State) : (clearError s).freeCount = s.freeCount := rfl

/-! ## writeSpec -/

@[simp] theorem writeSpec_phase (i : Nat) (ws : List Word) (s : State) : (writeSpec i ws s).phase = s.phase := rfl
@[simp] theorem writeSpec_busy (i : Nat) (ws : List Word) (s : State) : (writeSpec i ws s).busy = s.busy := rfl
@[simp] theorem writeSpec_command (i : Nat) (ws : List Word) (s : State) : (writeSpec i ws s).command = s.command := rfl
@[simp] theorem writeSpec_configured (i : Nat) (ws : List Word) (s : State) : (writeSpec i ws s).configured = s.configured := rfl
@[simp] theorem writeSpec_enable (i : Nat) (ws : List Word) (s : State) : (writeSpec i ws s).enable = s.enable := rfl
@[simp] theorem writeSpec_outValid (i : Nat) (ws : List Word) (s : State) : (writeSpec i ws s).outValid = s.outValid := rfl
@[simp] theorem writeSpec_drop (i : Nat) (ws : List Word) (s : State) : (writeSpec i ws s).drop = s.drop := rfl
@[simp] theorem writeSpec_err (i : Nat) (ws : List Word) (s : State) : (writeSpec i ws s).err = s.err := rfl
@[simp] theorem writeSpec_reqFs (i : Nat) (ws : List Word) (s : State) : (writeSpec i ws s).reqFs = s.reqFs := rfl
@[simp] theorem writeSpec_reqN (i : Nat) (ws : List Word) (s : State) : (writeSpec i ws s).reqN = s.reqN := rfl
@[simp] theorem writeSpec_reqB (i : Nat) (ws : List Word) (s : State) : (writeSpec i ws s).reqB = s.reqB := rfl
@[simp] theorem writeSpec_cfgN (i : Nat) (ws : List Word) (s : State) : (writeSpec i ws s).cfgN = s.cfgN := rfl
@[simp] theorem writeSpec_cfgB (i : Nat) (ws : List Word) (s : State) : (writeSpec i ws s).cfgB = s.cfgB := rfl
@[simp] theorem writeSpec_cfgFs (i : Nat) (ws : List Word) (s : State) : (writeSpec i ws s).cfgFs = s.cfgFs := rfl
@[simp] theorem writeSpec_fwdKind (i : Nat) (ws : List Word) (s : State) : (writeSpec i ws s).fwdKind = s.fwdKind := rfl
@[simp] theorem writeSpec_invKind (i : Nat) (ws : List Word) (s : State) : (writeSpec i ws s).invKind = s.invKind := rfl
@[simp] theorem writeSpec_dropCount (i : Nat) (ws : List Word) (s : State) : (writeSpec i ws s).dropCount = s.dropCount := rfl
@[simp] theorem writeSpec_specBuf (i : Nat) (ws : List Word) (s : State) : (writeSpec i ws s).specBuf = s.specBuf.writeWords i ws := rfl
@[simp] theorem writeSpec_inBuf (i : Nat) (ws : List Word) (s : State) : (writeSpec i ws s).inBuf = s.inBuf := rfl
@[simp] theorem writeSpec_outBuf (i : Nat) (ws : List Word) (s : State) : (writeSpec i ws s).outBuf = s.outBuf := rfl
@[simp] theorem writeSpec_histBuf (i : Nat) (ws : List Word) (s : State) : (writeSpec i ws s).histBuf = s.histBuf := rfl
@[simp] theorem writeSpec_accBuf (i : Nat) (ws : List Word) (s : State) : (writeSpec i ws s).accBuf = s.accBuf := rfl
@[simp] theorem writeSpec_inReset (i : Nat) (ws : List Word) (s : State) : (writeSpec i ws s).inReset = s.inReset := rfl
@[simp] theorem writeSpec_outAllocOk (i : Nat) (ws : List Word) (s : State) : (writeSpec i ws s).outAllocOk = s.outAllocOk := rfl
@[simp] theorem writeSpec_agenda (i : Nat) (ws : List Word) (s : State) : (writeSpec i ws s).agenda = s.agenda := rfl
@[simp] theorem writeSpec_response (i : Nat) (ws : List Word) (s : State) : (writeSpec i ws s).response = s.response := rfl
@[simp] theorem writeSpec_freeCount (i : Nat) (ws : List Word) (s : State) : (writeSpec i ws s).freeCount = s.freeCount := rfl

/-! ## writeHist -/

@[simp] theorem writeHist_phase (i : Nat) (ws : List Word) (s : State) : (writeHist i ws s).phase = s.phase := rfl
@[simp] theorem writeHist_busy (i : Nat) (ws : List Word) (s : State) : (writeHist i ws s).busy = s.busy := rfl
@[simp] theorem writeHist_command (i : Nat) (ws : List Word) (s : State) : (writeHist i ws s).command = s.command := rfl
@[simp] theorem writeHist_configured (i : Nat) (ws : List Word) (s : State) : (writeHist i ws s).configured = s.configured := rfl
@[simp] theorem writeHist_enable (i : Nat) (ws : List Word) (s : State) : (writeHist i ws s).enable = s.enable := rfl
@[simp] theorem writeHist_outValid (i : Nat) (ws : List Word) (s : State) : (writeHist i ws s).outValid = s.outValid := rfl
@[simp] theorem writeHist_drop (i : Nat) (ws : List Word) (s : State) : (writeHist i ws s).drop = s.drop := rfl
@[simp] theorem writeHist_err (i : Nat) (ws : List Word) (s : State) : (writeHist i ws s).err = s.err := rfl
@[simp] theorem writeHist_reqFs (i : Nat) (ws : List Word) (s : State) : (writeHist i ws s).reqFs = s.reqFs := rfl
@[simp] theorem writeHist_reqN (i : Nat) (ws : List Word) (s : State) : (writeHist i ws s).reqN = s.reqN := rfl
@[simp] theorem writeHist_reqB (i : Nat) (ws : List Word) (s : State) : (writeHist i ws s).reqB = s.reqB := rfl
@[simp] theorem writeHist_cfgN (i : Nat) (ws : List Word) (s : State) : (writeHist i ws s).cfgN = s.cfgN := rfl
@[simp] theorem writeHist_cfgB (i : Nat) (ws : List Word) (s : State) : (writeHist i ws s).cfgB = s.cfgB := rfl
@[simp] theorem writeHist_cfgFs (i : Nat) (ws : List Word) (s : State) : (writeHist i ws s).cfgFs = s.cfgFs := rfl
@[simp] theorem writeHist_fwdKind (i : Nat) (ws : List Word) (s : State) : (writeHist i ws s).fwdKind = s.fwdKind := rfl
@[simp] theorem writeHist_invKind (i : Nat) (ws : List Word) (s : State) : (writeHist i ws s).invKind = s.invKind := rfl
@[simp] theorem writeHist_dropCount (i : Nat) (ws : List Word) (s : State) : (writeHist i ws s).dropCount = s.dropCount := rfl
@[simp] theorem writeHist_specBuf (i : Nat) (ws : List Word) (s : State) : (writeHist i ws s).specBuf = s.specBuf := rfl
@[simp] theorem writeHist_inBuf (i : Nat) (ws : List Word) (s : State) : (writeHist i ws s).inBuf = s.inBuf := rfl
@[simp] theorem writeHist_outBuf (i : Nat) (ws : List Word) (s : State) : (writeHist i ws s).outBuf = s.outBuf := rfl
@[simp] theorem writeHist_histBuf (i : Nat) (ws : List Word) (s : State) : (writeHist i ws s).histBuf = s.histBuf.writeWords i ws := rfl
@[simp] theorem writeHist_accBuf (i : Nat) (ws : List Word) (s : State) : (writeHist i ws s).accBuf = s.accBuf := rfl
@[simp] theorem writeHist_inReset (i : Nat) (ws : List Word) (s : State) : (writeHist i ws s).inReset = s.inReset := rfl
@[simp] theorem writeHist_outAllocOk (i : Nat) (ws : List Word) (s : State) : (writeHist i ws s).outAllocOk = s.outAllocOk := rfl
@[simp] theorem writeHist_agenda (i : Nat) (ws : List Word) (s : State) : (writeHist i ws s).agenda = s.agenda := rfl
@[simp] theorem writeHist_response (i : Nat) (ws : List Word) (s : State) : (writeHist i ws s).response = s.response := rfl
@[simp] theorem writeHist_freeCount (i : Nat) (ws : List Word) (s : State) : (writeHist i ws s).freeCount = s.freeCount := rfl

/-! ## writeAcc -/

@[simp] theorem writeAcc_phase (i : Nat) (ws : List Word) (s : State) : (writeAcc i ws s).phase = s.phase := rfl
@[simp] theorem writeAcc_busy (i : Nat) (ws : List Word) (s : State) : (writeAcc i ws s).busy = s.busy := rfl
@[simp] theorem writeAcc_command (i : Nat) (ws : List Word) (s : State) : (writeAcc i ws s).command = s.command := rfl
@[simp] theorem writeAcc_configured (i : Nat) (ws : List Word) (s : State) : (writeAcc i ws s).configured = s.configured := rfl
@[simp] theorem writeAcc_enable (i : Nat) (ws : List Word) (s : State) : (writeAcc i ws s).enable = s.enable := rfl
@[simp] theorem writeAcc_outValid (i : Nat) (ws : List Word) (s : State) : (writeAcc i ws s).outValid = s.outValid := rfl
@[simp] theorem writeAcc_drop (i : Nat) (ws : List Word) (s : State) : (writeAcc i ws s).drop = s.drop := rfl
@[simp] theorem writeAcc_err (i : Nat) (ws : List Word) (s : State) : (writeAcc i ws s).err = s.err := rfl
@[simp] theorem writeAcc_reqFs (i : Nat) (ws : List Word) (s : State) : (writeAcc i ws s).reqFs = s.reqFs := rfl
@[simp] theorem writeAcc_reqN (i : Nat) (ws : List Word) (s : State) : (writeAcc i ws s).reqN = s.reqN := rfl
@[simp] theorem writeAcc_reqB (i : Nat) (ws : List Word) (s : State) : (writeAcc i ws s).reqB = s.reqB := rfl
@[simp] theorem writeAcc_cfgN (i : Nat) (ws : List Word) (s : State) : (writeAcc i ws s).cfgN = s.cfgN := rfl
@[simp] theorem writeAcc_cfgB (i : Nat) (ws : List Word) (s : State) : (writeAcc i ws s).cfgB = s.cfgB := rfl
@[simp] theorem writeAcc_cfgFs (i : Nat) (ws : List Word) (s : State) : (writeAcc i ws s).cfgFs = s.cfgFs := rfl
@[simp] theorem writeAcc_fwdKind (i : Nat) (ws : List Word) (s : State) : (writeAcc i ws s).fwdKind = s.fwdKind := rfl
@[simp] theorem writeAcc_invKind (i : Nat) (ws : List Word) (s : State) : (writeAcc i ws s).invKind = s.invKind := rfl
@[simp] theorem writeAcc_dropCount (i : Nat) (ws : List Word) (s : State) : (writeAcc i ws s).dropCount = s.dropCount := rfl
@[simp] theorem writeAcc_specBuf (i : Nat) (ws : List Word) (s : State) : (writeAcc i ws s).specBuf = s.specBuf := rfl
@[simp] theorem writeAcc_inBuf (i : Nat) (ws : List Word) (s : State) : (writeAcc i ws s).inBuf = s.inBuf := rfl
@[simp] theorem writeAcc_outBuf (i : Nat) (ws : List Word) (s : State) : (writeAcc i ws s).outBuf = s.outBuf := rfl
@[simp] theorem writeAcc_histBuf (i : Nat) (ws : List Word) (s : State) : (writeAcc i ws s).histBuf = s.histBuf := rfl
@[simp] theorem writeAcc_accBuf (i : Nat) (ws : List Word) (s : State) : (writeAcc i ws s).accBuf = s.accBuf.writeWords i ws := rfl
@[simp] theorem writeAcc_inReset (i : Nat) (ws : List Word) (s : State) : (writeAcc i ws s).inReset = s.inReset := rfl
@[simp] theorem writeAcc_outAllocOk (i : Nat) (ws : List Word) (s : State) : (writeAcc i ws s).outAllocOk = s.outAllocOk := rfl
@[simp] theorem writeAcc_agenda (i : Nat) (ws : List Word) (s : State) : (writeAcc i ws s).agenda = s.agenda := rfl
@[simp] theorem writeAcc_response (i : Nat) (ws : List Word) (s : State) : (writeAcc i ws s).response = s.response := rfl
@[simp] theorem writeAcc_freeCount (i : Nat) (ws : List Word) (s : State) : (writeAcc i ws s).freeCount = s.freeCount := rfl

/-! ## passthru -/

@[simp] theorem passthru_phase (s : State) : (passthru s).phase = s.phase := rfl
@[simp] theorem passthru_busy (s : State) : (passthru s).busy = s.busy := rfl
@[simp] theorem passthru_command (s : State) : (passthru s).command = s.command := rfl
@[simp] theorem passthru_configured (s : State) : (passthru s).configured = s.configured := rfl
@[simp] theorem passthru_enable (s : State) : (passthru s).enable = s.enable := rfl
@[simp] theorem passthru_outValid (s : State) : (passthru s).outValid = true := rfl
@[simp] theorem passthru_drop (s : State) : (passthru s).drop = false := rfl
@[simp] theorem passthru_err (s : State) : (passthru s).err = s.err := rfl
@[simp] theorem passthru_reqFs (s : State) : (passthru s).reqFs = s.reqFs := rfl
@[simp] theorem passthru_reqN (s : State) : (passthru s).reqN = s.reqN := rfl
@[simp] theorem passthru_reqB (s : State) : (passthru s).reqB = s.reqB := rfl
@[simp] theorem passthru_cfgN (s : State) : (passthru s).cfgN = s.cfgN := rfl
@[simp] theorem passthru_cfgB (s : State) : (passthru s).cfgB = s.cfgB := rfl
@[simp] theorem passthru_cfgFs (s : State) : (passthru s).cfgFs = s.cfgFs := rfl
@[simp] theorem passthru_fwdKind (s : State) : (passthru s).fwdKind = s.fwdKind := rfl
@[simp] theorem passthru_invKind (s : State) : (passthru s).invKind = s.invKind := rfl
@[simp] theorem passthru_dropCount (s : State) : (passthru s).dropCount = s.dropCount := rfl
@[simp] theorem passthru_specBuf (s : State) : (passthru s).specBuf = s.specBuf := rfl
@[simp] theorem passthru_inBuf (s : State) : (passthru s).inBuf = s.inBuf := rfl
@[simp] theorem passthru_outBuf (s : State) : (passthru s).outBuf = s.inBuf := rfl
@[simp] theorem passthru_histBuf (s : State) : (passthru s).histBuf = s.histBuf := rfl
@[simp] theorem passthru_accBuf (s : State) : (passthru s).accBuf = s.accBuf := rfl
@[simp] theorem passthru_inReset (s : State) : (passthru s).inReset = s.inReset := rfl
@[simp] theorem passthru_outAllocOk (s : State) : (passthru s).outAllocOk = s.outAllocOk := rfl
@[simp] theorem passthru_agenda (s : State) : (passthru s).agenda = s.agenda := rfl
@[simp] theorem passthru_response (s : State) : (passthru s).response = s.response := rfl
@[simp] theorem passthru_freeCount (s : State) : (passthru s).freeCount = s.freeCount := rfl

/-! ## deliver -/

@[simp] theorem deliver_phase (s : State) : (deliver s).phase = s.phase := rfl
@[simp] theorem deliver_busy (s : State) : (deliver s).busy = s.busy := rfl
@[simp] theorem deliver_command (s : State) : (deliver s).command = s.command := rfl
@[simp] theorem deliver_configured (s : State) : (deliver s).configured = s.configured := rfl
@[simp] theorem deliver_enable (s : State) : (deliver s).enable = s.enable := rfl
@[simp] theorem deliver_outValid (s : State) : (deliver s).outValid = true := rfl
@[simp] theorem deliver_drop (s : State) : (deliver s).drop = false := rfl
@[simp] theorem deliver_err (s : State) : (deliver s).err = s.err := rfl
@[simp] theorem deliver_reqFs (s : State) : (deliver s).reqFs = s.reqFs := rfl
@[simp] theorem deliver_reqN (s : State) : (deliver s).reqN = s.reqN := rfl
@[simp] theorem deliver_reqB (s : State) : (deliver s).reqB = s.reqB := rfl
@[simp] theorem deliver_cfgN (s : State) : (deliver s).cfgN = s.cfgN := rfl
@[simp] theorem deliver_cfgB (s : State) : (deliver s).cfgB = s.cfgB := rfl
@[simp] theorem deliver_cfgFs (s : State) : (deliver s).cfgFs = s.cfgFs := rfl
@[simp] theorem deliver_fwdKind (s : State) : (deliver s).fwdKind = s.fwdKind := rfl
@[simp] theorem deliver_invKind (s : State) : (deliver s).invKind = s.invKind := rfl
@[simp] theorem deliver_dropCount (s : State) : (deliver s).dropCount = s.dropCount := rfl
@[simp] theorem deliver_specBuf (s : State) : (deliver s).specBuf = s.specBuf := rfl
@[simp] theorem deliver_inBuf (s : State) : (deliver s).inBuf = s.inBuf := rfl
@[simp] theorem deliver_outBuf (s : State) : (deliver s).outBuf = s.outBuf.writeWords 0 (s.accBuf.readWords 0 s.blockLen) := rfl
@[simp] theorem deliver_histBuf (s : State) : (deliver s).histBuf = s.histBuf := rfl
@[simp] theorem deliver_accBuf (s : State) : (deliver s).accBuf = s.accBuf := rfl
@[simp] theorem deliver_inReset (s : State) : (deliver s).inReset = s.inReset := rfl
@[simp] theorem deliver_outAllocOk (s : State) : (deliver s).outAllocOk = s.outAllocOk := rfl
@[simp] theorem deliver_agenda (s : State) : (deliver s).agenda = s.agenda := rfl
@[simp] theorem deliver_response (s : State) : (deliver s).response = s.response := rfl
@[simp] theorem deliver_freeCount (s : State) : (deliver s).freeCount = s.freeCount := rfl

/-! ## dropFrame -/

@[simp] theorem dropFrame_phase (s : State) : (dropFrame s).phase = s.phase := rfl
@[simp] theorem dropFrame_busy (s : State) : (dropFrame s).busy = s.busy := rfl
@[simp] theorem dropFrame_command (s : State) : (dropFrame s).command = s.command := rfl
@[simp] theorem dropFrame_configured (s : State) : (dropFrame s).configured = s.configured := rfl
@[simp] theorem dropFrame_enable (s : State) : (dropFrame s).enable = s.enable := rfl
@[simp] theorem dropFrame_outValid (s : State) : (dropFrame s).outValid = false := rfl
@[simp] theorem dropFrame_drop (s : State) : (dropFrame s).drop = true := rfl
@[simp] theorem dropFrame_err (s : State) : (dropFrame s).err = .allocationFailure := rfl
@[simp] theorem dropFrame_reqFs (s : State) : (dropFrame s).reqFs = s.reqFs := rfl
@[simp] theorem dropFrame_reqN (s : State) : (dropFrame s).reqN = s.reqN := rfl
@[simp] theorem dropFrame_reqB (s : State) : (dropFrame s).reqB = s.reqB := rfl
@[simp] theorem dropFrame_cfgN (s : State) : (dropFrame s).cfgN = s.cfgN := rfl
@[simp] theorem dropFrame_cfgB (s : State) : (dropFrame s).cfgB = s.cfgB := rfl
@[simp] theorem dropFrame_cfgFs (s : State) : (dropFrame s).cfgFs = s.cfgFs := rfl
@[simp] theorem dropFrame_fwdKind (s : State) : (dropFrame s).fwdKind = s.fwdKind := rfl
@[simp] theorem dropFrame_invKind (s : State) : (dropFrame s).invKind = s.invKind := rfl
@[simp] theorem dropFrame_dropCount (s : State) : (dropFrame s).dropCount = s.dropCount + 1 := rfl
@[simp] theorem dropFrame_specBuf (s : State) : (dropFrame s).specBuf = s.specBuf := rfl
@[simp] theorem dropFrame_inBuf (s : State) : (dropFrame s).inBuf = s.inBuf := rfl
@[simp] theorem dropFrame_outBuf (s : State) : (dropFrame s).outBuf = s.outBuf := rfl
@[simp] theorem dropFrame_histBuf (s : State) : (dropFrame s).histBuf = s.histBuf := rfl
@[simp] theorem dropFrame_accBuf (s : State) : (dropFrame s).accBuf = s.accBuf := rfl
@[simp] theorem dropFrame_inReset (s : State) : (dropFrame s).inReset = s.inReset := rfl
@[simp] theorem dropFrame_outAllocOk (s : State) : (dropFrame s).outAllocOk = s.outAllocOk := rfl
@[simp] theorem dropFrame_agenda (s : State) : (dropFrame s).agenda = s.agenda := rfl
@[simp] theorem dropFrame_response (s : State) : (dropFrame s).response = s.response := rfl
@[simp] theorem dropFrame_freeCount (s : State) : (dropFrame s).freeCount = s.freeCount := rfl

/-! ## respond -/

@[simp] theorem respond_phase (r : Response) (s : State) : (respond r s).phase = s.phase := rfl
@[simp] theorem respond_busy (r : Response) (s : State) : (respond r s).busy = s.busy := rfl
@[simp] theorem respond_command (r : Response) (s : State) : (respond r s).command = s.command := rfl
@[simp] theorem respond_configured (r : Response) (s : State) : (respond r s).configured = s.configured := rfl
@[simp] theorem respond_enable (r : Response) (s : State) : (respond r s).enable = s.enable := rfl
@[simp] theorem respond_outValid (r : Response) (s : State) : (respond r s).outValid = s.outValid := rfl
@[simp] theorem respond_drop (r : Response) (s : State) : (respond r s).drop = s.drop := rfl
@[simp] theorem respond_err (r : Response) (s : State) : (respond r s).err = s.err := rfl
@[simp] theorem respond_reqFs (r : Response) (s : State) : (respond r s).reqFs = s.reqFs := rfl
@[simp] theorem respond_reqN (r : Response) (s : State) : (respond r s).reqN = s.reqN := rfl
@[simp] theorem respond_reqB (r : Response) (s : State) : (respond r s).reqB = s.reqB := rfl
@[simp] theorem respond_cfgN (r : Response) (s : State) : (respond r s).cfgN = s.cfgN := rfl
@[simp] theorem respond_cfgB (r : Response) (s : State) : (respond r s).cfgB = s.cfgB := rfl
@[simp] theorem respond_cfgFs (r : Response) (s : State) : (respond r s).cfgFs = s.cfgFs := rfl
@[simp] theorem respond_fwdKind (r : Response) (s : State) : (respond r s).fwdKind = s.fwdKind := rfl
@[simp] theorem respond_invKind (r : Response) (s : State) : (respond r s).invKind = s.invKind := rfl
@[simp] theorem respond_dropCount (r : Response) (s : State) : (respond r s).dropCount = s.dropCount := rfl
@[simp] theorem respond_specBuf (r : Response) (s : State) : (respond r s).specBuf = s.specBuf := rfl
@[simp] theorem respond_inBuf (r : Response) (s : State) : (respond r s).inBuf = s.inBuf := rfl
@[simp] theorem respond_outBuf (r : Response) (s : State) : (respond r s).outBuf = s.outBuf := rfl
@[simp] theorem respond_histBuf (r : Response) (s : State) : (respond r s).histBuf = s.histBuf := rfl
@[simp] theorem respond_accBuf (r : Response) (s : State) : (respond r s).accBuf = s.accBuf := rfl
@[simp] theorem respond_inReset (r : Response) (s : State) : (respond r s).inReset = s.inReset := rfl
@[simp] theorem respond_outAllocOk (r : Response) (s : State) : (respond r s).outAllocOk = s.outAllocOk := rfl
@[simp] theorem respond_agenda (r : Response) (s : State) : (respond r s).agenda = s.agenda := rfl
@[simp] theorem respond_response (r : Response) (s : State) : (respond r s).response = r := rfl
@[simp] theorem respond_freeCount (r : Response) (s : State) : (respond r s).freeCount = s.freeCount := rfl

/-! ## drawFree -/

@[simp] theorem drawFree_phase (s : State) : (drawFree s).phase = s.phase := rfl
@[simp] theorem drawFree_busy (s : State) : (drawFree s).busy = s.busy := rfl
@[simp] theorem drawFree_command (s : State) : (drawFree s).command = s.command := rfl
@[simp] theorem drawFree_configured (s : State) : (drawFree s).configured = s.configured := rfl
@[simp] theorem drawFree_enable (s : State) : (drawFree s).enable = s.enable := rfl
@[simp] theorem drawFree_outValid (s : State) : (drawFree s).outValid = s.outValid := rfl
@[simp] theorem drawFree_drop (s : State) : (drawFree s).drop = s.drop := rfl
@[simp] theorem drawFree_err (s : State) : (drawFree s).err = s.err := rfl
@[simp] theorem drawFree_reqFs (s : State) : (drawFree s).reqFs = s.reqFs := rfl
@[simp] theorem drawFree_reqN (s : State) : (drawFree s).reqN = s.reqN := rfl
@[simp] theorem drawFree_reqB (s : State) : (drawFree s).reqB = s.reqB := rfl
@[simp] theorem drawFree_cfgN (s : State) : (drawFree s).cfgN = s.cfgN := rfl
@[simp] theorem drawFree_cfgB (s : State) : (drawFree s).cfgB = s.cfgB := rfl
@[simp] theorem drawFree_cfgFs (s : State) : (drawFree s).cfgFs = s.cfgFs := rfl
@[simp] theorem drawFree_fwdKind (s : State) : (drawFree s).fwdKind = s.fwdKind := rfl
@[simp] theorem drawFree_invKind (s : State) : (drawFree s).invKind = s.invKind := rfl
@[simp] theorem drawFree_dropCount (s : State) : (drawFree s).dropCount = s.dropCount := rfl
@[simp] theorem drawFree_specBuf (s : State) : (drawFree s).specBuf = s.specBuf := rfl
@[simp] theorem drawFree_inBuf (s : State) : (drawFree s).inBuf = s.inBuf := rfl
@[simp] theorem drawFree_outBuf (s : State) : (drawFree s).outBuf = s.outBuf := rfl
@[simp] theorem drawFree_histBuf (s : State) : (drawFree s).histBuf = s.histBuf := rfl
@[simp] theorem drawFree_accBuf (s : State) : (drawFree s).accBuf = s.accBuf := rfl
@[simp] theorem drawFree_inReset (s : State) : (drawFree s).inReset = s.inReset := rfl
@[simp] theorem drawFree_outAllocOk (s : State) : (drawFree s).outAllocOk = s.outAllocOk := rfl
@[simp] theorem drawFree_agenda (s : State) : (drawFree s).agenda = s.agenda := rfl
@[simp] theorem drawFree_response (s : State) : (drawFree s).response = s.response := rfl
@[simp] theorem drawFree_freeCount (s : State) : (drawFree s).freeCount = s.freeCount + 1 := rfl

/-! ## clearBusy -/

@[simp] theorem clearBusy_phase (s : State) : (clearBusy s).phase = s.phase := rfl
@[simp] theorem clearBusy_busy (s : State) : (clearBusy s).busy = false := rfl
@[simp] theorem clearBusy_command (s : State) : (clearBusy s).command = 0 := rfl
@[simp] theorem clearBusy_configured (s : State) : (clearBusy s).configured = s.configured := rfl
@[simp] theorem clearBusy_enable (s : State) : (clearBusy s).enable = s.enable := rfl
@[simp] theorem clearBusy_outValid (s : State) : (clearBusy s).outValid = s.outValid := rfl
@[simp] theorem clearBusy_drop (s : State) : (clearBusy s).drop = s.drop := rfl
@[simp] theorem clearBusy_err (s : State) : (clearBusy s).err = s.err := rfl
@[simp] theorem clearBusy_reqFs (s : State) : (clearBusy s).reqFs = s.reqFs := rfl
@[simp] theorem clearBusy_reqN (s : State) : (clearBusy s).reqN = s.reqN := rfl
@[simp] theorem clearBusy_reqB (s : State) : (clearBusy s).reqB = s.reqB := rfl
@[simp] theorem clearBusy_cfgN (s : State) : (clearBusy s).cfgN = s.cfgN := rfl
@[simp] theorem clearBusy_cfgB (s : State) : (clearBusy s).cfgB = s.cfgB := rfl
@[simp] theorem clearBusy_cfgFs (s : State) : (clearBusy s).cfgFs = s.cfgFs := rfl
@[simp] theorem clearBusy_fwdKind (s : State) : (clearBusy s).fwdKind = s.fwdKind := rfl
@[simp] theorem clearBusy_invKind (s : State) : (clearBusy s).invKind = s.invKind := rfl
@[simp] theorem clearBusy_dropCount (s : State) : (clearBusy s).dropCount = s.dropCount := rfl
@[simp] theorem clearBusy_specBuf (s : State) : (clearBusy s).specBuf = s.specBuf := rfl
@[simp] theorem clearBusy_inBuf (s : State) : (clearBusy s).inBuf = s.inBuf := rfl
@[simp] theorem clearBusy_outBuf (s : State) : (clearBusy s).outBuf = s.outBuf := rfl
@[simp] theorem clearBusy_histBuf (s : State) : (clearBusy s).histBuf = s.histBuf := rfl
@[simp] theorem clearBusy_accBuf (s : State) : (clearBusy s).accBuf = s.accBuf := rfl
@[simp] theorem clearBusy_inReset (s : State) : (clearBusy s).inReset = s.inReset := rfl
@[simp] theorem clearBusy_outAllocOk (s : State) : (clearBusy s).outAllocOk = s.outAllocOk := rfl
@[simp] theorem clearBusy_agenda (s : State) : (clearBusy s).agenda = s.agenda := rfl
@[simp] theorem clearBusy_response (s : State) : (clearBusy s).response = s.response := rfl
@[simp] theorem clearBusy_freeCount (s : State) : (clearBusy s).freeCount = s.freeCount := rfl

/-! ## startCommand -/

@[simp] theorem startCommand_phase (w : Word) (s : State) : (startCommand w s).phase = s.phase := rfl
@[simp] theorem startCommand_busy (w : Word) (s : State) : (startCommand w s).busy = true := rfl
@[simp] theorem startCommand_command (w : Word) (s : State) : (startCommand w s).command = w := rfl
@[simp] theorem startCommand_configured (w : Word) (s : State) : (startCommand w s).configured = s.configured := rfl
@[simp] theorem startCommand_enable (w : Word) (s : State) : (startCommand w s).enable = s.enable := rfl
@[simp] theorem startCommand_outValid (w : Word) (s : State) : (startCommand w s).outValid = s.outValid := rfl
@[simp] theorem startCommand_drop (w : Word) (s : State) : (startCommand w s).drop = s.drop := rfl
@[simp] theorem startCommand_err (w : Word) (s : State) : (startCommand w s).err = s.err := rfl
@[simp] theorem startCommand_reqFs (w : Word) (s : State) : (startCommand w s).reqFs = s.reqFs := rfl
@[simp] theorem startCommand_reqN (w : Word) (s : State) : (startCommand w s).reqN = s.reqN := rfl
@[simp] theorem startCommand_reqB (w : Word) (s : State) : (startCommand w s).reqB = s.reqB := rfl
@[simp] theorem startCommand_cfgN (w : Word) (s : State) : (startCommand w s).cfgN = s.cfgN := rfl
@[simp] theorem startCommand_cfgB (w : Word) (s : State) : (startCommand w s).cfgB = s.cfgB := rfl
@[simp] theorem startCommand_cfgFs (w : Word) (s : State) : (startCommand w s).cfgFs = s.cfgFs := rfl
@[simp] theorem startCommand_fwdKind (w : Word) (s : State) : (startCommand w s).fwdKind = s.fwdKind := rfl
@[simp] theorem startCommand_invKind (w : Word) (s : State) : (startCommand w s).invKind = s.invKind := rfl
@[simp] theorem startCommand_dropCount (w : Word) (s : State) : (startCommand w s).dropCount = s.dropCount := rfl
@[simp] theorem startCommand_specBuf (w : Word) (s : State) : (startCommand w s).specBuf = s.specBuf := rfl
@[simp] theorem startCommand_inBuf (w : Word) (s : State) : (startCommand w s).inBuf = s.inBuf := rfl
@[simp] theorem startCommand_outBuf (w : Word) (s : State) : (startCommand w s).outBuf = s.outBuf := rfl
@[simp] theorem startCommand_histBuf (w : Word) (s : State) : (startCommand w s).histBuf = s.histBuf := rfl
@[simp] theorem startCommand_accBuf (w : Word) (s : State) : (startCommand w s).accBuf = s.accBuf := rfl
@[simp] theorem startCommand_inReset (w : Word) (s : State) : (startCommand w s).inReset = s.inReset := rfl
@[simp] theorem startCommand_outAllocOk (w : Word) (s : State) : (startCommand w s).outAllocOk = s.outAllocOk := rfl
@[simp] theorem startCommand_agenda (w : Word) (s : State) : (startCommand w s).agenda = s.agenda := rfl
@[simp] theorem startCommand_response (w : Word) (s : State) : (startCommand w s).response = s.response := rfl
@[simp] theorem startCommand_freeCount (w : Word) (s : State) : (startCommand w s).freeCount = s.freeCount := rfl

end Sys2Proof.Machine
end

