-- ==== Sys2Proof/Laws/Frames.lean ====
section
/-! SUPPORT. The frames of the composite operations: what each leaves as it was, and the configuration values. -/

namespace Sys2Proof.Machine

@[simp] theorem record_transformLen (c : ErrCode) (s : State) : (record c s).transformLen = s.transformLen := by
  simp [State.transformLen]
@[simp] theorem record_blockLen (c : ErrCode) (s : State) : (record c s).blockLen = s.blockLen := by
  simp [State.blockLen]
@[simp] theorem record_active (c : ErrCode) (s : State) : (record c s).active = s.active := by
  simp [State.active]
@[simp] theorem writeSpec_transformLen (i : Nat) (ws : List Word) (s : State) : (writeSpec i ws s).transformLen = s.transformLen := by
  simp [State.transformLen]
@[simp] theorem writeSpec_blockLen (i : Nat) (ws : List Word) (s : State) : (writeSpec i ws s).blockLen = s.blockLen := by
  simp [State.blockLen]
@[simp] theorem writeSpec_active (i : Nat) (ws : List Word) (s : State) : (writeSpec i ws s).active = s.active := by
  simp [State.active]
@[simp] theorem writeHist_transformLen (i : Nat) (ws : List Word) (s : State) : (writeHist i ws s).transformLen = s.transformLen := by
  simp [State.transformLen]
@[simp] theorem writeHist_blockLen (i : Nat) (ws : List Word) (s : State) : (writeHist i ws s).blockLen = s.blockLen := by
  simp [State.blockLen]
@[simp] theorem writeHist_active (i : Nat) (ws : List Word) (s : State) : (writeHist i ws s).active = s.active := by
  simp [State.active]
@[simp] theorem writeAcc_transformLen (i : Nat) (ws : List Word) (s : State) : (writeAcc i ws s).transformLen = s.transformLen := by
  simp [State.transformLen]
@[simp] theorem writeAcc_blockLen (i : Nat) (ws : List Word) (s : State) : (writeAcc i ws s).blockLen = s.blockLen := by
  simp [State.blockLen]
@[simp] theorem writeAcc_active (i : Nat) (ws : List Word) (s : State) : (writeAcc i ws s).active = s.active := by
  simp [State.active]
@[simp] theorem passthru_transformLen (s : State) : (passthru s).transformLen = s.transformLen := by
  simp [State.transformLen]
@[simp] theorem passthru_blockLen (s : State) : (passthru s).blockLen = s.blockLen := by
  simp [State.blockLen]
@[simp] theorem passthru_active (s : State) : (passthru s).active = s.active := by
  simp [State.active]
@[simp] theorem deliver_transformLen (s : State) : (deliver s).transformLen = s.transformLen := by
  simp [State.transformLen]
@[simp] theorem deliver_blockLen (s : State) : (deliver s).blockLen = s.blockLen := by
  simp [State.blockLen]
@[simp] theorem deliver_active (s : State) : (deliver s).active = s.active := by
  simp [State.active]
@[simp] theorem dropFrame_transformLen (s : State) : (dropFrame s).transformLen = s.transformLen := by
  simp [State.transformLen]
@[simp] theorem dropFrame_blockLen (s : State) : (dropFrame s).blockLen = s.blockLen := by
  simp [State.blockLen]
@[simp] theorem dropFrame_active (s : State) : (dropFrame s).active = s.active := by
  simp [State.active]

/-! ## transformFwd changes only specBuf -/

@[simp] theorem transformFwd_phase (s : State) : (transformFwd s).phase = s.phase := by simp [transformFwd]
@[simp] theorem transformFwd_busy (s : State) : (transformFwd s).busy = s.busy := by simp [transformFwd]
@[simp] theorem transformFwd_command (s : State) : (transformFwd s).command = s.command := by simp [transformFwd]
@[simp] theorem transformFwd_configured (s : State) : (transformFwd s).configured = s.configured := by simp [transformFwd]
@[simp] theorem transformFwd_enable (s : State) : (transformFwd s).enable = s.enable := by simp [transformFwd]
@[simp] theorem transformFwd_outValid (s : State) : (transformFwd s).outValid = s.outValid := by simp [transformFwd]
@[simp] theorem transformFwd_drop (s : State) : (transformFwd s).drop = s.drop := by simp [transformFwd]
@[simp] theorem transformFwd_err (s : State) : (transformFwd s).err = s.err := by simp [transformFwd]
@[simp] theorem transformFwd_reqFs (s : State) : (transformFwd s).reqFs = s.reqFs := by simp [transformFwd]
@[simp] theorem transformFwd_reqN (s : State) : (transformFwd s).reqN = s.reqN := by simp [transformFwd]
@[simp] theorem transformFwd_reqB (s : State) : (transformFwd s).reqB = s.reqB := by simp [transformFwd]
@[simp] theorem transformFwd_cfgN (s : State) : (transformFwd s).cfgN = s.cfgN := by simp [transformFwd]
@[simp] theorem transformFwd_cfgB (s : State) : (transformFwd s).cfgB = s.cfgB := by simp [transformFwd]
@[simp] theorem transformFwd_cfgFs (s : State) : (transformFwd s).cfgFs = s.cfgFs := by simp [transformFwd]
@[simp] theorem transformFwd_fwdKind (s : State) : (transformFwd s).fwdKind = s.fwdKind := by simp [transformFwd]
@[simp] theorem transformFwd_invKind (s : State) : (transformFwd s).invKind = s.invKind := by simp [transformFwd]
@[simp] theorem transformFwd_dropCount (s : State) : (transformFwd s).dropCount = s.dropCount := by simp [transformFwd]
@[simp] theorem transformFwd_inBuf (s : State) : (transformFwd s).inBuf = s.inBuf := by simp [transformFwd]
@[simp] theorem transformFwd_outBuf (s : State) : (transformFwd s).outBuf = s.outBuf := by simp [transformFwd]
@[simp] theorem transformFwd_histBuf (s : State) : (transformFwd s).histBuf = s.histBuf := by simp [transformFwd]
@[simp] theorem transformFwd_accBuf (s : State) : (transformFwd s).accBuf = s.accBuf := by simp [transformFwd]
@[simp] theorem transformFwd_inReset (s : State) : (transformFwd s).inReset = s.inReset := by simp [transformFwd]
@[simp] theorem transformFwd_outAllocOk (s : State) : (transformFwd s).outAllocOk = s.outAllocOk := by simp [transformFwd]
@[simp] theorem transformFwd_agenda (s : State) : (transformFwd s).agenda = s.agenda := by simp [transformFwd]
@[simp] theorem transformFwd_response (s : State) : (transformFwd s).response = s.response := by simp [transformFwd]
@[simp] theorem transformFwd_freeCount (s : State) : (transformFwd s).freeCount = s.freeCount := by simp [transformFwd]
@[simp] theorem transformFwd_transformLen (s : State) : (transformFwd s).transformLen = s.transformLen := by simp [transformFwd]
@[simp] theorem transformFwd_blockLen (s : State) : (transformFwd s).blockLen = s.blockLen := by simp [transformFwd]
@[simp] theorem transformFwd_active (s : State) : (transformFwd s).active = s.active := by simp [transformFwd]

/-! ## transformInv changes only specBuf -/

@[simp] theorem transformInv_phase (s : State) : (transformInv s).phase = s.phase := by simp [transformInv]
@[simp] theorem transformInv_busy (s : State) : (transformInv s).busy = s.busy := by simp [transformInv]
@[simp] theorem transformInv_command (s : State) : (transformInv s).command = s.command := by simp [transformInv]
@[simp] theorem transformInv_configured (s : State) : (transformInv s).configured = s.configured := by simp [transformInv]
@[simp] theorem transformInv_enable (s : State) : (transformInv s).enable = s.enable := by simp [transformInv]
@[simp] theorem transformInv_outValid (s : State) : (transformInv s).outValid = s.outValid := by simp [transformInv]
@[simp] theorem transformInv_drop (s : State) : (transformInv s).drop = s.drop := by simp [transformInv]
@[simp] theorem transformInv_err (s : State) : (transformInv s).err = s.err := by simp [transformInv]
@[simp] theorem transformInv_reqFs (s : State) : (transformInv s).reqFs = s.reqFs := by simp [transformInv]
@[simp] theorem transformInv_reqN (s : State) : (transformInv s).reqN = s.reqN := by simp [transformInv]
@[simp] theorem transformInv_reqB (s : State) : (transformInv s).reqB = s.reqB := by simp [transformInv]
@[simp] theorem transformInv_cfgN (s : State) : (transformInv s).cfgN = s.cfgN := by simp [transformInv]
@[simp] theorem transformInv_cfgB (s : State) : (transformInv s).cfgB = s.cfgB := by simp [transformInv]
@[simp] theorem transformInv_cfgFs (s : State) : (transformInv s).cfgFs = s.cfgFs := by simp [transformInv]
@[simp] theorem transformInv_fwdKind (s : State) : (transformInv s).fwdKind = s.fwdKind := by simp [transformInv]
@[simp] theorem transformInv_invKind (s : State) : (transformInv s).invKind = s.invKind := by simp [transformInv]
@[simp] theorem transformInv_dropCount (s : State) : (transformInv s).dropCount = s.dropCount := by simp [transformInv]
@[simp] theorem transformInv_inBuf (s : State) : (transformInv s).inBuf = s.inBuf := by simp [transformInv]
@[simp] theorem transformInv_outBuf (s : State) : (transformInv s).outBuf = s.outBuf := by simp [transformInv]
@[simp] theorem transformInv_histBuf (s : State) : (transformInv s).histBuf = s.histBuf := by simp [transformInv]
@[simp] theorem transformInv_accBuf (s : State) : (transformInv s).accBuf = s.accBuf := by simp [transformInv]
@[simp] theorem transformInv_inReset (s : State) : (transformInv s).inReset = s.inReset := by simp [transformInv]
@[simp] theorem transformInv_outAllocOk (s : State) : (transformInv s).outAllocOk = s.outAllocOk := by simp [transformInv]
@[simp] theorem transformInv_agenda (s : State) : (transformInv s).agenda = s.agenda := by simp [transformInv]
@[simp] theorem transformInv_response (s : State) : (transformInv s).response = s.response := by simp [transformInv]
@[simp] theorem transformInv_freeCount (s : State) : (transformInv s).freeCount = s.freeCount := by simp [transformInv]
@[simp] theorem transformInv_transformLen (s : State) : (transformInv s).transformLen = s.transformLen := by simp [transformInv]
@[simp] theorem transformInv_blockLen (s : State) : (transformInv s).blockLen = s.blockLen := by simp [transformInv]
@[simp] theorem transformInv_active (s : State) : (transformInv s).active = s.active := by simp [transformInv]

/-! ## rebuildSpec changes only specBuf -/

@[simp] theorem rebuildSpec_phase (s : State) : (rebuildSpec s).phase = s.phase := by simp [rebuildSpec]
@[simp] theorem rebuildSpec_busy (s : State) : (rebuildSpec s).busy = s.busy := by simp [rebuildSpec]
@[simp] theorem rebuildSpec_command (s : State) : (rebuildSpec s).command = s.command := by simp [rebuildSpec]
@[simp] theorem rebuildSpec_configured (s : State) : (rebuildSpec s).configured = s.configured := by simp [rebuildSpec]
@[simp] theorem rebuildSpec_enable (s : State) : (rebuildSpec s).enable = s.enable := by simp [rebuildSpec]
@[simp] theorem rebuildSpec_outValid (s : State) : (rebuildSpec s).outValid = s.outValid := by simp [rebuildSpec]
@[simp] theorem rebuildSpec_drop (s : State) : (rebuildSpec s).drop = s.drop := by simp [rebuildSpec]
@[simp] theorem rebuildSpec_err (s : State) : (rebuildSpec s).err = s.err := by simp [rebuildSpec]
@[simp] theorem rebuildSpec_reqFs (s : State) : (rebuildSpec s).reqFs = s.reqFs := by simp [rebuildSpec]
@[simp] theorem rebuildSpec_reqN (s : State) : (rebuildSpec s).reqN = s.reqN := by simp [rebuildSpec]
@[simp] theorem rebuildSpec_reqB (s : State) : (rebuildSpec s).reqB = s.reqB := by simp [rebuildSpec]
@[simp] theorem rebuildSpec_cfgN (s : State) : (rebuildSpec s).cfgN = s.cfgN := by simp [rebuildSpec]
@[simp] theorem rebuildSpec_cfgB (s : State) : (rebuildSpec s).cfgB = s.cfgB := by simp [rebuildSpec]
@[simp] theorem rebuildSpec_cfgFs (s : State) : (rebuildSpec s).cfgFs = s.cfgFs := by simp [rebuildSpec]
@[simp] theorem rebuildSpec_fwdKind (s : State) : (rebuildSpec s).fwdKind = s.fwdKind := by simp [rebuildSpec]
@[simp] theorem rebuildSpec_invKind (s : State) : (rebuildSpec s).invKind = s.invKind := by simp [rebuildSpec]
@[simp] theorem rebuildSpec_dropCount (s : State) : (rebuildSpec s).dropCount = s.dropCount := by simp [rebuildSpec]
@[simp] theorem rebuildSpec_inBuf (s : State) : (rebuildSpec s).inBuf = s.inBuf := by simp [rebuildSpec]
@[simp] theorem rebuildSpec_outBuf (s : State) : (rebuildSpec s).outBuf = s.outBuf := by simp [rebuildSpec]
@[simp] theorem rebuildSpec_histBuf (s : State) : (rebuildSpec s).histBuf = s.histBuf := by simp [rebuildSpec]
@[simp] theorem rebuildSpec_accBuf (s : State) : (rebuildSpec s).accBuf = s.accBuf := by simp [rebuildSpec]
@[simp] theorem rebuildSpec_inReset (s : State) : (rebuildSpec s).inReset = s.inReset := by simp [rebuildSpec]
@[simp] theorem rebuildSpec_outAllocOk (s : State) : (rebuildSpec s).outAllocOk = s.outAllocOk := by simp [rebuildSpec]
@[simp] theorem rebuildSpec_agenda (s : State) : (rebuildSpec s).agenda = s.agenda := by simp [rebuildSpec]
@[simp] theorem rebuildSpec_response (s : State) : (rebuildSpec s).response = s.response := by simp [rebuildSpec]
@[simp] theorem rebuildSpec_freeCount (s : State) : (rebuildSpec s).freeCount = s.freeCount := by simp [rebuildSpec]
@[simp] theorem rebuildSpec_transformLen (s : State) : (rebuildSpec s).transformLen = s.transformLen := by simp [rebuildSpec]
@[simp] theorem rebuildSpec_blockLen (s : State) : (rebuildSpec s).blockLen = s.blockLen := by simp [rebuildSpec]
@[simp] theorem rebuildSpec_active (s : State) : (rebuildSpec s).active = s.active := by simp [rebuildSpec]

/-! ## shiftHist changes only histBuf -/

@[simp] theorem shiftHist_phase (s : State) : (shiftHist s).phase = s.phase := by simp [shiftHist]
@[simp] theorem shiftHist_busy (s : State) : (shiftHist s).busy = s.busy := by simp [shiftHist]
@[simp] theorem shiftHist_command (s : State) : (shiftHist s).command = s.command := by simp [shiftHist]
@[simp] theorem shiftHist_configured (s : State) : (shiftHist s).configured = s.configured := by simp [shiftHist]
@[simp] theorem shiftHist_enable (s : State) : (shiftHist s).enable = s.enable := by simp [shiftHist]
@[simp] theorem shiftHist_outValid (s : State) : (shiftHist s).outValid = s.outValid := by simp [shiftHist]
@[simp] theorem shiftHist_drop (s : State) : (shiftHist s).drop = s.drop := by simp [shiftHist]
@[simp] theorem shiftHist_err (s : State) : (shiftHist s).err = s.err := by simp [shiftHist]
@[simp] theorem shiftHist_reqFs (s : State) : (shiftHist s).reqFs = s.reqFs := by simp [shiftHist]
@[simp] theorem shiftHist_reqN (s : State) : (shiftHist s).reqN = s.reqN := by simp [shiftHist]
@[simp] theorem shiftHist_reqB (s : State) : (shiftHist s).reqB = s.reqB := by simp [shiftHist]
@[simp] theorem shiftHist_cfgN (s : State) : (shiftHist s).cfgN = s.cfgN := by simp [shiftHist]
@[simp] theorem shiftHist_cfgB (s : State) : (shiftHist s).cfgB = s.cfgB := by simp [shiftHist]
@[simp] theorem shiftHist_cfgFs (s : State) : (shiftHist s).cfgFs = s.cfgFs := by simp [shiftHist]
@[simp] theorem shiftHist_fwdKind (s : State) : (shiftHist s).fwdKind = s.fwdKind := by simp [shiftHist]
@[simp] theorem shiftHist_invKind (s : State) : (shiftHist s).invKind = s.invKind := by simp [shiftHist]
@[simp] theorem shiftHist_dropCount (s : State) : (shiftHist s).dropCount = s.dropCount := by simp [shiftHist]
@[simp] theorem shiftHist_specBuf (s : State) : (shiftHist s).specBuf = s.specBuf := by simp [shiftHist]
@[simp] theorem shiftHist_inBuf (s : State) : (shiftHist s).inBuf = s.inBuf := by simp [shiftHist]
@[simp] theorem shiftHist_outBuf (s : State) : (shiftHist s).outBuf = s.outBuf := by simp [shiftHist]
@[simp] theorem shiftHist_accBuf (s : State) : (shiftHist s).accBuf = s.accBuf := by simp [shiftHist]
@[simp] theorem shiftHist_inReset (s : State) : (shiftHist s).inReset = s.inReset := by simp [shiftHist]
@[simp] theorem shiftHist_outAllocOk (s : State) : (shiftHist s).outAllocOk = s.outAllocOk := by simp [shiftHist]
@[simp] theorem shiftHist_agenda (s : State) : (shiftHist s).agenda = s.agenda := by simp [shiftHist]
@[simp] theorem shiftHist_response (s : State) : (shiftHist s).response = s.response := by simp [shiftHist]
@[simp] theorem shiftHist_freeCount (s : State) : (shiftHist s).freeCount = s.freeCount := by simp [shiftHist]
@[simp] theorem shiftHist_transformLen (s : State) : (shiftHist s).transformLen = s.transformLen := by simp [shiftHist]
@[simp] theorem shiftHist_blockLen (s : State) : (shiftHist s).blockLen = s.blockLen := by simp [shiftHist]
@[simp] theorem shiftHist_active (s : State) : (shiftHist s).active = s.active := by simp [shiftHist]

/-! ## frameHist changes only specBuf -/

@[simp] theorem frameHist_phase (s : State) : (frameHist s).phase = s.phase := by simp [frameHist]
@[simp] theorem frameHist_busy (s : State) : (frameHist s).busy = s.busy := by simp [frameHist]
@[simp] theorem frameHist_command (s : State) : (frameHist s).command = s.command := by simp [frameHist]
@[simp] theorem frameHist_configured (s : State) : (frameHist s).configured = s.configured := by simp [frameHist]
@[simp] theorem frameHist_enable (s : State) : (frameHist s).enable = s.enable := by simp [frameHist]
@[simp] theorem frameHist_outValid (s : State) : (frameHist s).outValid = s.outValid := by simp [frameHist]
@[simp] theorem frameHist_drop (s : State) : (frameHist s).drop = s.drop := by simp [frameHist]
@[simp] theorem frameHist_err (s : State) : (frameHist s).err = s.err := by simp [frameHist]
@[simp] theorem frameHist_reqFs (s : State) : (frameHist s).reqFs = s.reqFs := by simp [frameHist]
@[simp] theorem frameHist_reqN (s : State) : (frameHist s).reqN = s.reqN := by simp [frameHist]
@[simp] theorem frameHist_reqB (s : State) : (frameHist s).reqB = s.reqB := by simp [frameHist]
@[simp] theorem frameHist_cfgN (s : State) : (frameHist s).cfgN = s.cfgN := by simp [frameHist]
@[simp] theorem frameHist_cfgB (s : State) : (frameHist s).cfgB = s.cfgB := by simp [frameHist]
@[simp] theorem frameHist_cfgFs (s : State) : (frameHist s).cfgFs = s.cfgFs := by simp [frameHist]
@[simp] theorem frameHist_fwdKind (s : State) : (frameHist s).fwdKind = s.fwdKind := by simp [frameHist]
@[simp] theorem frameHist_invKind (s : State) : (frameHist s).invKind = s.invKind := by simp [frameHist]
@[simp] theorem frameHist_dropCount (s : State) : (frameHist s).dropCount = s.dropCount := by simp [frameHist]
@[simp] theorem frameHist_inBuf (s : State) : (frameHist s).inBuf = s.inBuf := by simp [frameHist]
@[simp] theorem frameHist_outBuf (s : State) : (frameHist s).outBuf = s.outBuf := by simp [frameHist]
@[simp] theorem frameHist_histBuf (s : State) : (frameHist s).histBuf = s.histBuf := by simp [frameHist]
@[simp] theorem frameHist_accBuf (s : State) : (frameHist s).accBuf = s.accBuf := by simp [frameHist]
@[simp] theorem frameHist_inReset (s : State) : (frameHist s).inReset = s.inReset := by simp [frameHist]
@[simp] theorem frameHist_outAllocOk (s : State) : (frameHist s).outAllocOk = s.outAllocOk := by simp [frameHist]
@[simp] theorem frameHist_agenda (s : State) : (frameHist s).agenda = s.agenda := by simp [frameHist]
@[simp] theorem frameHist_response (s : State) : (frameHist s).response = s.response := by simp [frameHist]
@[simp] theorem frameHist_freeCount (s : State) : (frameHist s).freeCount = s.freeCount := by simp [frameHist]
@[simp] theorem frameHist_transformLen (s : State) : (frameHist s).transformLen = s.transformLen := by simp [frameHist]
@[simp] theorem frameHist_blockLen (s : State) : (frameHist s).blockLen = s.blockLen := by simp [frameHist]
@[simp] theorem frameHist_active (s : State) : (frameHist s).active = s.active := by simp [frameHist]

/-! ## overlapAdd changes only accBuf -/

@[simp] theorem overlapAdd_phase (s : State) : (overlapAdd s).phase = s.phase := by simp [overlapAdd]
@[simp] theorem overlapAdd_busy (s : State) : (overlapAdd s).busy = s.busy := by simp [overlapAdd]
@[simp] theorem overlapAdd_command (s : State) : (overlapAdd s).command = s.command := by simp [overlapAdd]
@[simp] theorem overlapAdd_configured (s : State) : (overlapAdd s).configured = s.configured := by simp [overlapAdd]
@[simp] theorem overlapAdd_enable (s : State) : (overlapAdd s).enable = s.enable := by simp [overlapAdd]
@[simp] theorem overlapAdd_outValid (s : State) : (overlapAdd s).outValid = s.outValid := by simp [overlapAdd]
@[simp] theorem overlapAdd_drop (s : State) : (overlapAdd s).drop = s.drop := by simp [overlapAdd]
@[simp] theorem overlapAdd_err (s : State) : (overlapAdd s).err = s.err := by simp [overlapAdd]
@[simp] theorem overlapAdd_reqFs (s : State) : (overlapAdd s).reqFs = s.reqFs := by simp [overlapAdd]
@[simp] theorem overlapAdd_reqN (s : State) : (overlapAdd s).reqN = s.reqN := by simp [overlapAdd]
@[simp] theorem overlapAdd_reqB (s : State) : (overlapAdd s).reqB = s.reqB := by simp [overlapAdd]
@[simp] theorem overlapAdd_cfgN (s : State) : (overlapAdd s).cfgN = s.cfgN := by simp [overlapAdd]
@[simp] theorem overlapAdd_cfgB (s : State) : (overlapAdd s).cfgB = s.cfgB := by simp [overlapAdd]
@[simp] theorem overlapAdd_cfgFs (s : State) : (overlapAdd s).cfgFs = s.cfgFs := by simp [overlapAdd]
@[simp] theorem overlapAdd_fwdKind (s : State) : (overlapAdd s).fwdKind = s.fwdKind := by simp [overlapAdd]
@[simp] theorem overlapAdd_invKind (s : State) : (overlapAdd s).invKind = s.invKind := by simp [overlapAdd]
@[simp] theorem overlapAdd_dropCount (s : State) : (overlapAdd s).dropCount = s.dropCount := by simp [overlapAdd]
@[simp] theorem overlapAdd_specBuf (s : State) : (overlapAdd s).specBuf = s.specBuf := by simp [overlapAdd]
@[simp] theorem overlapAdd_inBuf (s : State) : (overlapAdd s).inBuf = s.inBuf := by simp [overlapAdd]
@[simp] theorem overlapAdd_outBuf (s : State) : (overlapAdd s).outBuf = s.outBuf := by simp [overlapAdd]
@[simp] theorem overlapAdd_histBuf (s : State) : (overlapAdd s).histBuf = s.histBuf := by simp [overlapAdd]
@[simp] theorem overlapAdd_inReset (s : State) : (overlapAdd s).inReset = s.inReset := by simp [overlapAdd]
@[simp] theorem overlapAdd_outAllocOk (s : State) : (overlapAdd s).outAllocOk = s.outAllocOk := by simp [overlapAdd]
@[simp] theorem overlapAdd_agenda (s : State) : (overlapAdd s).agenda = s.agenda := by simp [overlapAdd]
@[simp] theorem overlapAdd_response (s : State) : (overlapAdd s).response = s.response := by simp [overlapAdd]
@[simp] theorem overlapAdd_freeCount (s : State) : (overlapAdd s).freeCount = s.freeCount := by simp [overlapAdd]
@[simp] theorem overlapAdd_transformLen (s : State) : (overlapAdd s).transformLen = s.transformLen := by simp [overlapAdd]
@[simp] theorem overlapAdd_blockLen (s : State) : (overlapAdd s).blockLen = s.blockLen := by simp [overlapAdd]
@[simp] theorem overlapAdd_active (s : State) : (overlapAdd s).active = s.active := by simp [overlapAdd]

/-! ## rotateAcc changes only accBuf -/

@[simp] theorem rotateAcc_phase (s : State) : (rotateAcc s).phase = s.phase := by simp [rotateAcc]
@[simp] theorem rotateAcc_busy (s : State) : (rotateAcc s).busy = s.busy := by simp [rotateAcc]
@[simp] theorem rotateAcc_command (s : State) : (rotateAcc s).command = s.command := by simp [rotateAcc]
@[simp] theorem rotateAcc_configured (s : State) : (rotateAcc s).configured = s.configured := by simp [rotateAcc]
@[simp] theorem rotateAcc_enable (s : State) : (rotateAcc s).enable = s.enable := by simp [rotateAcc]
@[simp] theorem rotateAcc_outValid (s : State) : (rotateAcc s).outValid = s.outValid := by simp [rotateAcc]
@[simp] theorem rotateAcc_drop (s : State) : (rotateAcc s).drop = s.drop := by simp [rotateAcc]
@[simp] theorem rotateAcc_err (s : State) : (rotateAcc s).err = s.err := by simp [rotateAcc]
@[simp] theorem rotateAcc_reqFs (s : State) : (rotateAcc s).reqFs = s.reqFs := by simp [rotateAcc]
@[simp] theorem rotateAcc_reqN (s : State) : (rotateAcc s).reqN = s.reqN := by simp [rotateAcc]
@[simp] theorem rotateAcc_reqB (s : State) : (rotateAcc s).reqB = s.reqB := by simp [rotateAcc]
@[simp] theorem rotateAcc_cfgN (s : State) : (rotateAcc s).cfgN = s.cfgN := by simp [rotateAcc]
@[simp] theorem rotateAcc_cfgB (s : State) : (rotateAcc s).cfgB = s.cfgB := by simp [rotateAcc]
@[simp] theorem rotateAcc_cfgFs (s : State) : (rotateAcc s).cfgFs = s.cfgFs := by simp [rotateAcc]
@[simp] theorem rotateAcc_fwdKind (s : State) : (rotateAcc s).fwdKind = s.fwdKind := by simp [rotateAcc]
@[simp] theorem rotateAcc_invKind (s : State) : (rotateAcc s).invKind = s.invKind := by simp [rotateAcc]
@[simp] theorem rotateAcc_dropCount (s : State) : (rotateAcc s).dropCount = s.dropCount := by simp [rotateAcc]
@[simp] theorem rotateAcc_specBuf (s : State) : (rotateAcc s).specBuf = s.specBuf := by simp [rotateAcc]
@[simp] theorem rotateAcc_inBuf (s : State) : (rotateAcc s).inBuf = s.inBuf := by simp [rotateAcc]
@[simp] theorem rotateAcc_outBuf (s : State) : (rotateAcc s).outBuf = s.outBuf := by simp [rotateAcc]
@[simp] theorem rotateAcc_histBuf (s : State) : (rotateAcc s).histBuf = s.histBuf := by simp [rotateAcc]
@[simp] theorem rotateAcc_inReset (s : State) : (rotateAcc s).inReset = s.inReset := by simp [rotateAcc]
@[simp] theorem rotateAcc_outAllocOk (s : State) : (rotateAcc s).outAllocOk = s.outAllocOk := by simp [rotateAcc]
@[simp] theorem rotateAcc_agenda (s : State) : (rotateAcc s).agenda = s.agenda := by simp [rotateAcc]
@[simp] theorem rotateAcc_response (s : State) : (rotateAcc s).response = s.response := by simp [rotateAcc]
@[simp] theorem rotateAcc_freeCount (s : State) : (rotateAcc s).freeCount = s.freeCount := by simp [rotateAcc]
@[simp] theorem rotateAcc_transformLen (s : State) : (rotateAcc s).transformLen = s.transformLen := by simp [rotateAcc]
@[simp] theorem rotateAcc_blockLen (s : State) : (rotateAcc s).blockLen = s.blockLen := by simp [rotateAcc]
@[simp] theorem rotateAcc_active (s : State) : (rotateAcc s).active = s.active := by simp [rotateAcc]

/-! ## An emission changes OUT, OUT_VALID, DROP, DROP_COUNT and, when dropped, REG.ERR (R82) -/

@[simp] theorem emit_phase (s : State) : (emit s).phase = s.phase := by
  unfold emit; split <;> simp
@[simp] theorem emit_busy (s : State) : (emit s).busy = s.busy := by
  unfold emit; split <;> simp
@[simp] theorem emit_command (s : State) : (emit s).command = s.command := by
  unfold emit; split <;> simp
@[simp] theorem emit_configured (s : State) : (emit s).configured = s.configured := by
  unfold emit; split <;> simp
@[simp] theorem emit_enable (s : State) : (emit s).enable = s.enable := by
  unfold emit; split <;> simp
@[simp] theorem emit_reqFs (s : State) : (emit s).reqFs = s.reqFs := by
  unfold emit; split <;> simp
@[simp] theorem emit_reqN (s : State) : (emit s).reqN = s.reqN := by
  unfold emit; split <;> simp
@[simp] theorem emit_reqB (s : State) : (emit s).reqB = s.reqB := by
  unfold emit; split <;> simp
@[simp] theorem emit_cfgN (s : State) : (emit s).cfgN = s.cfgN := by
  unfold emit; split <;> simp
@[simp] theorem emit_cfgB (s : State) : (emit s).cfgB = s.cfgB := by
  unfold emit; split <;> simp
@[simp] theorem emit_cfgFs (s : State) : (emit s).cfgFs = s.cfgFs := by
  unfold emit; split <;> simp
@[simp] theorem emit_fwdKind (s : State) : (emit s).fwdKind = s.fwdKind := by
  unfold emit; split <;> simp
@[simp] theorem emit_invKind (s : State) : (emit s).invKind = s.invKind := by
  unfold emit; split <;> simp
@[simp] theorem emit_specBuf (s : State) : (emit s).specBuf = s.specBuf := by
  unfold emit; split <;> simp
@[simp] theorem emit_inBuf (s : State) : (emit s).inBuf = s.inBuf := by
  unfold emit; split <;> simp
@[simp] theorem emit_histBuf (s : State) : (emit s).histBuf = s.histBuf := by
  unfold emit; split <;> simp
@[simp] theorem emit_accBuf (s : State) : (emit s).accBuf = s.accBuf := by
  unfold emit; split <;> simp
@[simp] theorem emit_inReset (s : State) : (emit s).inReset = s.inReset := by
  unfold emit; split <;> simp
@[simp] theorem emit_outAllocOk (s : State) : (emit s).outAllocOk = s.outAllocOk := by
  unfold emit; split <;> simp
@[simp] theorem emit_agenda (s : State) : (emit s).agenda = s.agenda := by
  unfold emit; split <;> simp
@[simp] theorem emit_response (s : State) : (emit s).response = s.response := by
  unfold emit; split <;> simp
@[simp] theorem emit_freeCount (s : State) : (emit s).freeCount = s.freeCount := by
  unfold emit; split <;> simp
@[simp] theorem emit_transformLen (s : State) : (emit s).transformLen = s.transformLen := by
  unfold emit; split <;> simp
@[simp] theorem emit_blockLen (s : State) : (emit s).blockLen = s.blockLen := by
  unfold emit; split <;> simp
@[simp] theorem emit_active (s : State) : (emit s).active = s.active := by
  unfold emit; split <;> simp

@[simp] theorem emit_outValid (s : State) : (emit s).outValid = s.outAllocOk := by
  unfold emit; cases h : s.outAllocOk <;> simp
@[simp] theorem emit_drop (s : State) : (emit s).drop = !s.outAllocOk := by
  unfold emit; cases h : s.outAllocOk <;> simp
theorem emit_dropCount (s : State) :
    (emit s).dropCount = if s.outAllocOk then s.dropCount else s.dropCount + 1 := by
  unfold emit; cases h : s.outAllocOk <;> simp
theorem emit_err (s : State) : (emit s).err = if s.outAllocOk then s.err else .allocationFailure := by
  unfold emit; cases h : s.outAllocOk <;> simp
theorem emit_outBuf (s : State) :
    (emit s).outBuf = if s.outAllocOk then (deliver s).outBuf else s.outBuf := by
  unfold emit; cases h : s.outAllocOk <;> simp

end Sys2Proof.Machine
end

