-- ==== Sys2Proof/Laws/Memory.lean ====
section
/-! SUPPORT. What every memory operation does: reads after writes, what a write leaves alone, and the canonical form. -/

namespace Sys2Proof.Machine

@[simp] theorem Memory.getByte_nil (a : Nat) : Memory.getByte [] a = Memory.unlisted a := rfl

@[simp] theorem Memory.getByte_cons (c : Host.Cell) (m : Memory) (a : Nat) :
    Memory.getByte (c :: m) a = if c.1 = a then c.2 else Memory.getByte m a := rfl

theorem Memory.getByte_insertCell (c : Host.Cell) (m : Memory) (a : Nat)
    (h : ∀ d ∈ m, d.1 ≠ c.1) :
    (Memory.insertCell c m).getByte a = if c.1 = a then c.2 else m.getByte a := by
  induction m with
  | nil => rfl
  | cons d m ih =>
    have hd := h d (by simp)
    have hm : ∀ e ∈ m, e.1 ≠ c.1 := fun e he => h e (by simp [he])
    simp only [Memory.insertCell]
    split
    · rfl
    · simp only [Memory.getByte_cons, ih hm]
      by_cases h1 : d.1 = a
      · have : c.1 ≠ a := fun h2 => hd (h1.trans h2.symm)
        simp [h1, this]
      · simp [h1]

theorem Memory.getByte_erase (m : Memory) (a a' : Nat) :
    Memory.getByte (m.filter fun c => c.1 != a) a' =
      if a' = a then Memory.unlisted a else m.getByte a' := by
  induction m with
  | nil => by_cases h : a' = a <;> simp [h]
  | cons d m ih =>
    by_cases hd : d.1 = a
    · simp only [List.filter_cons, hd, bne_self_eq_false, Bool.false_eq_true, if_false, ih,
        Memory.getByte_cons]
      by_cases h : a' = a
      · simp [h]
      · simp [h, Ne.symm h]
    · have hb : (d.1 != a) = true := by simpa using hd
      simp only [List.filter_cons, hb, if_true, Memory.getByte_cons, ih]
      by_cases h : a' = a
      · subst h; simp [hd]
      · simp [h]

/-- A read after a write gives what was written, and every other byte stays. -/
theorem Memory.getByte_setByte (m : Memory) (a : Nat) (b : Byte) (a' : Nat) :
    (m.setByte a b).getByte a' = if a' = a then b else m.getByte a' := by
  unfold Memory.setByte
  split
  · next h =>
    rw [Memory.getByte_erase]
    split
    · exact h.symm
    · rfl
  · rw [Memory.getByte_insertCell _ _ _ (by simp), Memory.getByte_erase]
    by_cases h : a' = a
    · simp [h]
    · simp [h, Ne.symm h]

theorem Memory.mem_insertCell {c d : Host.Cell} {m : Memory} :
    d ∈ Memory.insertCell c m ↔ d = c ∨ d ∈ m := by
  induction m with
  | nil => simp [Memory.insertCell]
  | cons e m ih =>
    simp only [Memory.insertCell]
    split
    · simp
    · simp only [List.mem_cons, ih]; tauto

theorem Memory.mem_setByte {m : Memory} {a : Nat} {b : Byte} {c : Host.Cell}
    (h : c ∈ m.setByte a b) : c = (a, b) ∧ b ≠ Memory.unlisted a ∨ c ∈ m := by
  unfold Memory.setByte at h
  split at h
  · exact Or.inr (List.mem_filter.1 h).1
  · next hb =>
    rcases Memory.mem_insertCell.1 h with h | h
    · exact Or.inl ⟨h, hb⟩
    · exact Or.inr (List.mem_filter.1 h).1

theorem Memory.sorted_insertCell (c : Host.Cell) (m : Memory)
    (hm : m.Pairwise fun c d => c.1 < d.1) (hne : ∀ d ∈ m, d.1 ≠ c.1) :
    (Memory.insertCell c m).Pairwise fun c d => c.1 < d.1 := by
  induction m with
  | nil => simp [Memory.insertCell]
  | cons e m ih =>
    rw [List.pairwise_cons] at hm
    simp only [Memory.insertCell]
    split
    · next h =>
      refine List.pairwise_cons.2 ⟨fun d hd => ?_, List.pairwise_cons.2 hm⟩
      rcases List.mem_cons.1 hd with rfl | hd
      · exact h
      · exact h.trans (hm.1 d hd)
    · next h =>
      have he := hne e (by simp)
      refine List.pairwise_cons.2 ⟨fun d hd => ?_, ih hm.2 fun d hd => hne d (by simp [hd])⟩
      rcases Memory.mem_insertCell.1 hd with rfl | hd
      · omega
      · exact hm.1 d hd

/-- A write keeps the canonical form. -/
theorem Memory.setByte_wf {m : Memory} (h : m.wf) (a : Nat) (b : Byte) : (m.setByte a b).wf := by
  refine ⟨?_, fun c hc => ?_⟩
  · unfold Memory.setByte
    have hf := h.1.filter fun c => c.1 != a
    split
    · exact hf
    · exact Memory.sorted_insertCell _ _ hf (by simp)
  · rcases Memory.mem_setByte hc with ⟨rfl, hb⟩ | hc
    · exact hb
    · exact h.2 c hc

theorem Memory.setByte_within {m : Memory} {size : Nat} (h : m.within size) {a : Nat} (ha : a < size)
    (b : Byte) : (m.setByte a b).within size := by
  intro c hc
  rcases Memory.mem_setByte hc with ⟨rfl, -⟩ | hc
  · exact ha
  · exact h c hc

/-- Equal reads make equal canonical memories. -/
theorem Memory.eq_of_getByte {m m' : Memory} (h : m.wf) (h' : m'.wf)
    (hr : ∀ a, m.getByte a = m'.getByte a) : m = m' := by
  have mem_of : ∀ {m : Memory}, m.wf → ∀ c ∈ m, m.getByte c.1 = c.2 := by
    intro m hm c hc
    induction m with
    | nil => simp at hc
    | cons d m ih =>
      have hs := List.pairwise_cons.1 hm.1
      rcases List.mem_cons.1 hc with rfl | hc
      · simp
      · have hlt := hs.1 c hc
        simp only [Memory.getByte_cons, show ¬ d.1 = c.1 by omega, if_false]
        exact ih ⟨hs.2, fun e he => hm.2 e (by simp [he])⟩ hc
  have listed : ∀ {m : Memory} (a : Nat), m.getByte a ≠ Memory.unlisted a → (a, m.getByte a) ∈ m := by
    intro m a ha
    induction m with
    | nil => simp at ha
    | cons d m ih =>
      simp only [Memory.getByte_cons] at ha ⊢
      by_cases hd : d.1 = a
      · subst hd; simp
      · simp only [hd, if_false] at ha ⊢
        exact List.mem_cons_of_mem _ (ih ha)
  have sub : ∀ {m m' : Memory}, m.wf → (∀ a, m.getByte a = m'.getByte a) → ∀ c ∈ m, c ∈ m' := by
    intro m m' hm hr c hc
    have h1 := mem_of hm c hc
    have h2 : m'.getByte c.1 = c.2 := by rw [← hr, h1]
    have := listed (m := m') c.1 (by rw [h2]; exact hm.2 c hc)
    rwa [h2] at this
  have nodup : ∀ {m : Memory}, m.wf → m.Nodup := fun hm =>
    hm.1.imp fun h he => by rw [he] at h; exact Nat.lt_irrefl _ h
  have hp : m.Perm m' := (List.perm_ext_iff_of_nodup (nodup h) (nodup h')).2 fun c =>
    ⟨sub h hr c, sub h' (fun a => (hr a).symm) c⟩
  exact hp.eq_of_pairwise (fun a b _ _ h1 h2 => absurd h1 (by omega)) h.1 h'.1

theorem byteLane_append (b3 b2 b1 b0 : Byte) :
    byteLane (b3 ++ b2 ++ b1 ++ b0 : Word) 0 = b0 ∧ byteLane (b3 ++ b2 ++ b1 ++ b0 : Word) 1 = b1 ∧
    byteLane (b3 ++ b2 ++ b1 ++ b0 : Word) 2 = b2 ∧ byteLane (b3 ++ b2 ++ b1 ++ b0 : Word) 3 = b3 := by
  refine ⟨?_, ?_, ?_, ?_⟩ <;>
  · apply BitVec.eq_of_getLsbD_eq
    intro i hi
    simp only [byteLane, BitVec.getLsbD_extractLsb', BitVec.getLsbD_append, hi, decide_true,
      Bool.true_and, Nat.mul_zero, Nat.zero_add, if_true, Nat.reduceMul,
      show ¬ (8 + i < 8) by omega, show ¬ (16 + i < 8) by omega, show ¬ (24 + i < 8) by omega,
      show ¬ (16 + i - 8 < 8) by omega, show ¬ (24 + i - 8 < 8) by omega,
      show ¬ (24 + i - 8 - 8 < 8) by omega, show 8 + i - 8 = i by omega,
      show 16 + i - 8 - 8 = i by omega, show 24 + i - 8 - 8 - 8 = i by omega, if_false]

/-- The four byte lanes of a word make it up. -/
theorem append_byteLanes (w : Word) :
    (byteLane w 3 ++ byteLane w 2 ++ byteLane w 1 ++ byteLane w 0 : Word) = w := by
  apply BitVec.eq_of_getLsbD_eq
  intro i hi
  simp only [byteLane, BitVec.getLsbD_append, BitVec.getLsbD_extractLsb']
  by_cases h0 : i < 8
  · simp [h0]
  · by_cases h1 : i < 16
    · simp [h0, show i - 8 < 8 by omega, show 8 + (i - 8) = i by omega]
    · by_cases h2 : i < 24
      · simp [h0, show ¬ (i - 8 < 8) by omega, show i - 8 - 8 < 8 by omega,
          show 16 + (i - 8 - 8) = i by omega]
      · simp [h0, show ¬ (i - 8 < 8) by omega, show ¬ (i - 8 - 8 < 8) by omega,
          show i - 8 - 8 - 8 < 8 by omega, show 24 + (i - 8 - 8 - 8) = i by omega]

/-- The bytes of a written word, and every other byte. -/
theorem Memory.getByte_setWord (m : Memory) (i : Nat) (w : Word) (a : Nat) :
    (m.setWord i w).getByte a =
      if a / 4 = i then byteLane w (a % 4) else m.getByte a := by
  simp only [Memory.setWord, Memory.getByte_setByte]
  by_cases h : a / 4 = i
  · have h4 : a % 4 < 4 := Nat.mod_lt _ (by omega)
    have hd := Nat.div_add_mod a 4
    rw [if_pos h]
    generalize hr : a % 4 = r at *
    interval_cases r
    · simp [show a = 4 * i by omega]
    · simp [show a = 4 * i + 1 by omega]
    · simp [show a = 4 * i + 2 by omega]
    · simp [show a = 4 * i + 3 by omega]
  · simp [h, show a ≠ 4 * i by omega, show a ≠ 4 * i + 1 by omega, show a ≠ 4 * i + 2 by omega,
      show a ≠ 4 * i + 3 by omega]

/-- A word read after a word write gives the word written, and every other word stays. -/
@[simp] theorem Memory.getWord_setWord (m : Memory) (i : Nat) (w : Word) (j : Nat) :
    (m.setWord i w).getWord j = if j = i then w else m.getWord j := by
  simp only [Memory.getWord, Memory.getByte_setWord]
  have e0 : 4 * j / 4 = j := by omega
  have e1 : (4 * j + 1) / 4 = j := by omega
  have e2 : (4 * j + 2) / 4 = j := by omega
  have e3 : (4 * j + 3) / 4 = j := by omega
  have r0 : 4 * j % 4 = 0 := by omega
  have r1 : (4 * j + 1) % 4 = 1 := by omega
  have r2 : (4 * j + 2) % 4 = 2 := by omega
  have r3 : (4 * j + 3) % 4 = 3 := by omega
  rw [e0, e1, e2, e3, r0, r1, r2, r3]
  split
  · exact append_byteLanes w
  · rfl

/-- A byte of memory is a byte lane of its word. -/
theorem Memory.getByte_eq_byteLane (m : Memory) (a : Nat) :
    m.getByte a = byteLane (m.getWord (a / 4)) (a % 4) := by
  have h4 : a % 4 < 4 := Nat.mod_lt _ (by omega)
  have hd := Nat.div_add_mod a 4
  have hb := byteLane_append (m.getByte (4 * (a / 4) + 3)) (m.getByte (4 * (a / 4) + 2))
    (m.getByte (4 * (a / 4) + 1)) (m.getByte (4 * (a / 4)))
  unfold Memory.getWord
  generalize hr : a % 4 = r at *
  interval_cases r
  · rw [hb.1]; congr 1; omega
  · rw [hb.2.1]; congr 1; omega
  · rw [hb.2.2.1]; congr 1; omega
  · rw [hb.2.2.2]; congr 1; omega

/-- Canonical memories with equal words are equal. -/
theorem Memory.eq_of_getWord {m m' : Memory} (h : m.wf) (h' : m'.wf)
    (hr : ∀ i, m.getWord i = m'.getWord i) : m = m' :=
  Memory.eq_of_getByte h h' fun a => by
    rw [Memory.getByte_eq_byteLane, hr, ← Memory.getByte_eq_byteLane]

theorem Memory.setWord_wf {m : Memory} (h : m.wf) (i : Nat) (w : Word) : (m.setWord i w).wf :=
  Memory.setByte_wf (Memory.setByte_wf (Memory.setByte_wf (Memory.setByte_wf h _ _) _ _) _ _) _ _

theorem Memory.setWord_within {m : Memory} {size i : Nat} (h : m.within size) (hi : 4 * i + 4 ≤ size)
    (w : Word) : (m.setWord i w).within size :=
  Memory.setByte_within
    (Memory.setByte_within
      (Memory.setByte_within (Memory.setByte_within h (by omega) _) (by omega) _) (by omega) _)
    (by omega) _

/-- What writing consecutive words does: each word of the range, and every other word. -/
theorem Memory.getWord_writeWords (m : Memory) (i : Nat) (ws : List Word) (j : Nat) :
    (m.writeWords i ws).getWord j =
      if i ≤ j ∧ j < i + ws.length then ws.getD (j - i) 0 else m.getWord j := by
  induction ws generalizing m i with
  | nil => simp [Memory.writeWords, show ¬ (i ≤ j ∧ j < i) by omega]
  | cons w ws ih =>
    simp only [Memory.writeWords, ih, Memory.getWord_setWord, List.length_cons]
    by_cases hj : j = i
    · subst hj; simp
    · by_cases h : i + 1 ≤ j ∧ j < i + 1 + ws.length
      · rw [if_pos h, if_pos (by omega), show j - i = (j - (i + 1)) + 1 by omega]; rfl
      · rw [if_neg h, if_neg hj, if_neg (by omega)]

/-- Writing consecutive words leaves every byte outside their range alone. -/
theorem Memory.getByte_writeWords_of_not_mem (m : Memory) (i : Nat) (ws : List Word) {a : Nat}
    (h : ¬ (4 * i ≤ a ∧ a < 4 * (i + ws.length))) : (m.writeWords i ws).getByte a = m.getByte a := by
  rw [Memory.getByte_eq_byteLane, Memory.getWord_writeWords, if_neg (by omega),
    ← Memory.getByte_eq_byteLane]

theorem Memory.writeWords_wf {m : Memory} (h : m.wf) (i : Nat) (ws : List Word) :
    (m.writeWords i ws).wf := by
  induction ws generalizing m i with
  | nil => exact h
  | cons w ws ih => exact ih (Memory.setWord_wf h i w) (i + 1)

theorem Memory.writeWords_within {m : Memory} {size i : Nat} {ws : List Word} (h : m.within size)
    (hi : 4 * (i + ws.length) ≤ size) : (m.writeWords i ws).within size := by
  induction ws generalizing m i with
  | nil => exact h
  | cons w ws ih =>
    rw [List.length_cons] at hi
    exact ih (Memory.setWord_within h (by omega) w) (by omega)

@[simp] theorem Memory.length_readWords (m : Memory) (i n : Nat) : (m.readWords i n).length = n := by
  simp [Memory.readWords]

/-- The words that `readWords` gives. -/
theorem Memory.getD_readWords (m : Memory) (i n j : Nat) (h : j < n) :
    (m.readWords i n).getD j 0 = m.getWord (i + j) := by
  simp [Memory.readWords, List.getD_eq_getElem?_getD, h]

@[simp] theorem Memory.getWord_zeroed (i : Nat) : Memory.zeroed.getWord i = 0 := by
  simp only [Memory.zeroed, Memory.getWord, Memory.getByte_nil, Memory.unlisted]; decide

theorem Memory.zeroed_wf : Memory.zeroed.wf := by decide

theorem Memory.zeroed_within (size : Nat) : Memory.zeroed.within size := fun _ h => by
  simp [Memory.zeroed] at h

end Sys2Proof.Machine
end

