-- ==== Sys2Proof/Laws/Ops.lean ====
section
/-! SUPPORT. For each shared operation, once, everything it can do: the words it writes, what it leaves alone, and
that it keeps the buffers in order. -/

namespace Sys2Proof.Machine

/-! ## Windows and word lists -/

@[simp] theorem length_applyWindow (kind : WinKind) (N : Nat) (ws : List Word) :
    (applyWindow kind N ws).length = ws.length := by
  cases kind <;> simp [applyWindow]

/-- Windowing touches only the real channel, and only for HANN (R61). -/
theorem getD_applyWindow (kind : WinKind) (N : Nat) (ws : List Word) (p : Nat) (h : p < ws.length) :
    (applyWindow kind N ws).getD p 0 =
      if kind = .hann ∧ p % 2 = 0 then fmul32 (ws.getD p 0) (hannWord N (p / 2)) else ws.getD p 0 := by
  cases kind
  · simp [applyWindow]
  · simp [applyWindow, List.getD_eq_getElem?_getD, List.getElem?_mapIdx, List.getElem?_eq_getElem h]

theorem getD_map_range (f : Nat → Word) (n j : Nat) (h : j < n) :
    ((List.range n).map f).getD j 0 = f j := by
  simp [List.getD_eq_getElem?_getD, h]

theorem getD_append_left (l r : List Word) (j : Nat) (h : j < l.length) :
    (l ++ r).getD j 0 = l.getD j 0 := by
  simp [List.getD_eq_getElem?_getD, List.getElem?_append_left h]

theorem getD_append_right (l r : List Word) (j : Nat) (h : l.length ≤ j) :
    (l ++ r).getD j 0 = r.getD (j - l.length) 0 := by
  simp [List.getD_eq_getElem?_getD, List.getElem?_append_right h]

@[simp] theorem length_windowedSpec (s : State) : s.windowedSpec.length = 2 * s.transformLen := by
  simp [State.windowedSpec]

@[simp] theorem length_inverseSpec (s : State) : s.inverseSpec.length = 2 * s.transformLen :=
  Config.fft.length_run _ _ _

@[simp] theorem length_conjugateWords (s : State) :
    s.conjugateWords.length = 2 * (s.transformLen / 2 - 1) := by
  simp [State.conjugateWords]

/-- What the forward transform reads (R66). -/
theorem getD_windowedSpec (s : State) (p : Nat) (h : p < 2 * s.transformLen) :
    s.windowedSpec.getD p 0 =
      if s.fwdKind = .hann ∧ p % 2 = 0 then fmul32 (s.specWord p) (hannWord s.transformLen (p / 2))
      else s.specWord p := by
  unfold State.windowedSpec
  rw [getD_applyWindow _ _ _ _ (by simpa using h), Memory.getD_readWords _ _ _ _ h, Nat.zero_add]
  rfl

/-! ## Transforms -/

theorem transformFwd_eq (s : State) :
    transformFwd s = { s with specBuf := (transformFwd s).specBuf } := rfl

/-- `transform_fwd()` (R66) word by word. -/
theorem transformFwd_specWord (s : State) (j : Nat) :
    (transformFwd s).specWord j =
      if j < 2 * s.transformLen then (Config.fft.run .forward s.transformLen s.windowedSpec).getD j 0
      else s.specWord j := by
  simp [transformFwd, State.specWord, Memory.getWord_writeWords, Config.fft.length_run]

theorem transformInv_eq (s : State) :
    transformInv s = { s with specBuf := (transformInv s).specBuf } := rfl

/-- `transform_inv()` (R67) word by word. -/
theorem transformInv_specWord (s : State) (j : Nat) :
    (transformInv s).specWord j =
      if j < 2 * s.transformLen then
        (if s.invKind = .hann ∧ j % 2 = 0 then
          fmul32 (s.inverseSpec.getD j 0) (hannWord s.transformLen (j / 2))
        else s.inverseSpec.getD j 0)
      else s.specWord j := by
  simp only [transformInv, State.specWord, writeSpec_specBuf, Memory.getWord_writeWords,
    length_applyWindow, length_inverseSpec, Nat.zero_le, true_and, Nat.zero_add, Nat.sub_zero]
  split
  · next h => rw [getD_applyWindow _ _ _ _ (by simpa using h)]
  · rfl

/-! ## The Hermitian enforcer -/

theorem rebuildSpec_eq (s : State) : rebuildSpec s = { s with specBuf := (rebuildSpec s).specBuf } := rfl

/-- `rebuild()` (R76) word by word, for an even length. -/
theorem rebuildSpec_specWord (s : State) (he : s.transformLen % 2 = 0) (p : Nat) :
    (rebuildSpec s).specWord p =
      if s.transformLen / 2 < p / 2 ∧ p / 2 < s.transformLen then
        (if p % 2 = 0 then s.specWord (2 * (s.transformLen - p / 2))
        else fneg32 (s.specWord (2 * (s.transformLen - p / 2) + 1)))
      else s.specWord p := by
  have hN := Nat.div_add_mod s.transformLen 2
  simp only [rebuildSpec, State.specWord, writeSpec_specBuf, Memory.getWord_writeWords,
    length_conjugateWords]
  by_cases h : s.transformLen / 2 < p / 2 ∧ p / 2 < s.transformLen
  · rw [if_pos h, if_pos (by omega)]
    unfold State.conjugateWords
    rw [getD_map_range _ _ _ (by omega)]
    have e1 : (p - 2 * (s.transformLen / 2 + 1)) / 2 = p / 2 - (s.transformLen / 2 + 1) := by omega
    have e2 : (p - 2 * (s.transformLen / 2 + 1)) % 2 = p % 2 := by omega
    have e3 : s.transformLen / 2 - 1 - (p / 2 - (s.transformLen / 2 + 1)) = s.transformLen - p / 2 := by
      omega
    simp only [e1, e2, e3, State.specWord]
  · rw [if_neg h, if_neg (by omega)]

/-! ## The rings -/

theorem shiftHist_eq (s : State) : shiftHist s = { s with histBuf := (shiftHist s).histBuf } := rfl

/-- The ring after steps 1 and 2 of ANALYZE (R72), word by word. -/
theorem shiftHist_histWord (s : State) (h : s.blockLen ≤ s.transformLen) (n : Nat) :
    (shiftHist s).histWord n =
      if n < s.transformLen - s.blockLen then s.histWord (n + s.blockLen)
      else if n < s.transformLen then s.inWord (n - (s.transformLen - s.blockLen))
      else s.histWord n := by
  simp only [shiftHist, State.histWord, State.inWord, writeHist_histBuf, Memory.getWord_writeWords,
    List.length_append, Memory.length_readWords, Nat.zero_le, true_and, Nat.zero_add, Nat.sub_zero]
  by_cases h1 : n < s.transformLen - s.blockLen
  · rw [if_pos (by omega), if_pos h1, getD_append_left _ _ _ (by simpa using h1),
      Memory.getD_readWords _ _ _ _ h1, Nat.add_comm]
  · rw [if_neg h1]
    by_cases h2 : n < s.transformLen
    · rw [if_pos (by omega), if_pos h2, getD_append_right _ _ _ (by simpa using h1),
        Memory.length_readWords, Memory.getD_readWords _ _ _ _ (by omega), Nat.zero_add]
    · rw [if_neg (by omega), if_neg h2]

theorem frameHist_eq (s : State) : frameHist s = { s with specBuf := (frameHist s).specBuf } := rfl

/-- The frame of step 3 of ANALYZE (R72), word by word. -/
theorem frameHist_specWord (s : State) (p : Nat) :
    (frameHist s).specWord p =
      if p < 2 * s.transformLen then (if p % 2 = 0 then s.histWord (p / 2) else fpZero)
      else s.specWord p := by
  simp only [frameHist, State.specWord, writeSpec_specBuf, Memory.getWord_writeWords, List.length_map,
    List.length_range, Nat.zero_le, true_and, Nat.zero_add, Nat.sub_zero]
  split
  · next h => rw [getD_map_range _ _ _ h]
  · rfl

theorem overlapAdd_eq (s : State) : overlapAdd s = { s with accBuf := (overlapAdd s).accBuf } := rfl

/-- Step 3 of SYNTHESIZE (R81), word by word. -/
theorem overlapAdd_accWord (s : State) (n : Nat) :
    (overlapAdd s).accWord n =
      if n < s.transformLen then fadd32 (s.accWord n) (s.specWord (2 * n)) else s.accWord n := by
  simp only [overlapAdd, State.accWord, writeAcc_accBuf, Memory.getWord_writeWords, List.length_map,
    List.length_range, Nat.zero_le, true_and, Nat.zero_add, Nat.sub_zero]
  split
  · next h => rw [getD_map_range _ _ _ h]
  · rfl

theorem rotateAcc_eq (s : State) : rotateAcc s = { s with accBuf := (rotateAcc s).accBuf } := rfl

/-- Step 5 of SYNTHESIZE (R81), word by word. -/
theorem rotateAcc_accWord (s : State) (h : s.blockLen ≤ s.transformLen) (n : Nat) :
    (rotateAcc s).accWord n =
      if n < s.transformLen - s.blockLen then s.accWord (n + s.blockLen)
      else if n < s.transformLen then 0
      else s.accWord n := by
  simp only [rotateAcc, State.accWord, writeAcc_accBuf, Memory.getWord_writeWords, List.length_append,
    Memory.length_readWords, List.length_replicate, Nat.zero_le, true_and, Nat.zero_add, Nat.sub_zero]
  by_cases h1 : n < s.transformLen - s.blockLen
  · rw [if_pos (by omega), if_pos h1, getD_append_left _ _ _ (by simpa using h1),
      Memory.getD_readWords _ _ _ _ h1, Nat.add_comm]
  · rw [if_neg h1]
    by_cases h2 : n < s.transformLen
    · rw [if_pos (by omega), if_pos h2, getD_append_right _ _ _ (by simpa using h1)]
      exact Config.getD_replicate_zero _ _
    · rw [if_neg (by omega), if_neg h2]

/-- The delivered block (R82), word by word. -/
theorem deliver_outWord (s : State) (j : Nat) :
    (deliver s).outWord j = if j < s.blockLen then s.accWord j else s.outWord j := by
  simp only [State.outWord, State.accWord, deliver_outBuf, Memory.getWord_writeWords,
    Memory.length_readWords, Nat.zero_le, true_and, Nat.zero_add, Nat.sub_zero]
  split
  · next h => rw [Memory.getD_readWords _ _ _ _ h, Nat.zero_add]
  · rfl

/-- What an emission can change (R82). -/
theorem emit_eq (s : State) :
    emit s = { s with
      outBuf := (emit s).outBuf, outValid := s.outAllocOk, drop := !s.outAllocOk
      dropCount := (emit s).dropCount, err := (emit s).err } := by
  unfold emit
  cases h : s.outAllocOk <;> simp [deliver, dropFrame, record, h]

/-! ## The bodies of the cycle commands -/

/-- What an active ANALYZE can change (R72). -/
theorem openCycle_eq (s : State) :
    openCycle s = { s with
      histBuf := (shiftHist s).histBuf, specBuf := (openCycle s).specBuf
      phase := .hook, outValid := false } := by
  simp only [openCycle, transformFwd, frameHist, shiftHist, writeSpec, writeHist]

/-- What a SYNTHESIZE in the hook window can change (R81, R82). -/
theorem synthesizeBody_eq (s : State) :
    synthesizeBody s = { s with
      specBuf := (transformInv (rebuildSpec s)).specBuf, accBuf := (synthesizeBody s).accBuf
      outBuf := (synthesizeBody s).outBuf, outValid := s.outAllocOk, drop := !s.outAllocOk
      dropCount := (synthesizeBody s).dropCount, err := (synthesizeBody s).err, phase := .idle } := by
  simp only [synthesizeBody, rotateAcc, writeAcc]
  rw [emit_eq]
  simp only [overlapAdd, transformInv, rebuildSpec, writeSpec, writeAcc]

/-! ## Sizes, the branches of the bodies, and the window -/

/-- What R84 gives every rule that uses N and B. -/
theorem sizes_of_validSize {s : State} (h : validSize s.cfgN s.cfgB = true) :
    16 ≤ s.transformLen ∧ s.transformLen ≤ 4096 ∧ s.transformLen % 2 = 0 ∧ 1 ≤ s.blockLen ∧
      s.blockLen ≤ s.transformLen ∧ s.transformLen % s.blockLen = 0 := by
  simp only [validSize, supportedLengths, Bool.and_eq_true, decide_eq_true_eq, List.contains_iff_mem,
    List.mem_cons, List.not_mem_nil, or_false] at h
  obtain ⟨⟨⟨h1, h2⟩, h3⟩, h4⟩ := h
  have hN : s.cfgN.toNat = s.transformLen := rfl
  have hB : s.cfgB.toNat = s.blockLen := rfl
  rw [hN] at h1 h3 h4
  rw [hB] at h2 h3 h4
  exact ⟨by omega, by omega, by omega, h2, h3, h4⟩

theorem configOk_validSize {s : State} (h : s.configOk) (hc : s.configured = true) :
    validSize s.cfgN s.cfgB = true := by
  simpa [State.configOk, hc] using h

theorem analyzeBody_of_active {s : State} (h : s.active = true) : analyzeBody s = openCycle s := by
  simp [analyzeBody, h]

/-- The pass-through of an ANALYZE that is not active (R72, R89). -/
theorem analyzeBody_of_not_active {s : State} (h : s.active = false) :
    analyzeBody s = { s with
      outBuf := s.inBuf, outValid := true, drop := false
      err := if s.configured then s.err else .notConfigured } := by
  cases hc : s.configured <;> simp [analyzeBody, h, passthru, record, hc]

theorem synthesizeBody_err (s : State) :
    (synthesizeBody s).err = if s.outAllocOk then s.err else .allocationFailure := by
  simp only [synthesizeBody, rotateAcc, writeAcc_err, emit_err]
  rfl

theorem synthesizeBody_dropCount (s : State) :
    (synthesizeBody s).dropCount = if s.outAllocOk then s.dropCount else s.dropCount + 1 := by
  simp only [synthesizeBody, rotateAcc, writeAcc_dropCount, emit_dropCount]
  rfl

@[simp] theorem emit_accWord (s : State) (n : Nat) : (emit s).accWord n = s.accWord n := by
  simp [State.accWord]

/-- An offset below the window's size is the offset of its address (R35, R36). -/
theorem windowOffset_base {off : Nat} (h : off < 0x18000) : windowOffset (Config.base + off) = some off := by
  unfold windowOffset windowBytes
  rw [if_pos (by omega)]
  simp

/-- Bytes agree where words do. -/
theorem Memory.getByte_eq_of_getWord {m m' : Memory} {a : Nat} (h : m'.getWord (a / 4) = m.getWord (a / 4)) :
    m'.getByte a = m.getByte a := by
  rw [Memory.getByte_eq_byteLane, h, ← Memory.getByte_eq_byteLane]

/-! ## The buffers stay in order -/

theorem BufferOk.setWord {m : Memory} {bytes i : Nat} (h : BufferOk m bytes) (hi : 4 * i + 4 ≤ bytes)
    (w : Word) : BufferOk (m.setWord i w) bytes :=
  ⟨Memory.setWord_wf h.1 i w, Memory.setWord_within h.2 hi w⟩

theorem BufferOk.writeWords {m : Memory} {bytes i : Nat} {ws : List Word} (h : BufferOk m bytes)
    (hi : 4 * (i + ws.length) ≤ bytes) : BufferOk (m.writeWords i ws) bytes :=
  ⟨Memory.writeWords_wf h.1 i ws, Memory.writeWords_within h.2 hi⟩

theorem BufferOk.zeroed (bytes : Nat) : BufferOk Memory.zeroed bytes :=
  ⟨Memory.zeroed_wf, Memory.zeroed_within bytes⟩

theorem BufferOk.unspecified (epoch : Nat) (b : Config.Buffer) (n : Nat) (before : Memory) :
    BufferOk (unspecifiedBuffer epoch b n before) (4 * n) :=
  (BufferOk.zeroed _).writeWords (by simp)

/-- The buffers after a reset (R115), whatever they held. -/
theorem resetCore_buffersOk (s : State) : (resetCore s).buffersOk := by
  have h := BufferOk.unspecified s.freeCount
  simp only [State.buffersOk, resetCore, drawFree]
  exact ⟨h _ _ _, h _ _ _, h _ _ _, h _ _ _, h _ _ _⟩

end Sys2Proof.Machine
end

