-- ==== Sys2Proof/Laws/Step.lean ====
section
/-! SUPPORT. What a step can do, said once: the turns of the core and of the host, and where an offset leads. -/

namespace Sys2Proof.Machine

/-! ## Turns -/

theorem step_of_nil {s : State} (h : s.agenda = []) : step s = coreTurn s := by
  simp [step, nextTurn, h]

theorem step_of_cons {s : State} {e : Event} {rest : List Event} (h : s.agenda = e :: rest) :
    step s = takeEvent e { s with agenda := rest } := by
  simp [step, nextTurn, h]

/-- The core's turn comes with a `core` event or an empty agenda (log entries 1, 2). -/
theorem step_of_core {s : State} (h : s.agenda = [] ∨ s.agenda.head? = some .core) :
    step s = coreTurn { s with agenda := s.agenda.tail } := by
  rcases h with h | h
  · rw [step_of_nil h]
    congr 1
    cases s
    simp_all
  · obtain ⟨rest, hr⟩ : ∃ rest, s.agenda = .core :: rest := by
      cases hs : s.agenda with
      | nil => simp [hs] at h
      | cons e rest => simp [hs] at h; exact ⟨rest, by rw [h]⟩
    rw [step_of_cons hr, hr]
    rfl

theorem coreTurn_of_idle {s : State} (h : s.busy = false) : coreTurn s = .next s := by
  simp [coreTurn, h]

theorem coreTurn_of_some {s : State} {i : Instr} (h : s.busy = true) (hd : decode s.command = some i) :
    coreTurn s = exec i (clearBusy s) := by
  simp [coreTurn, runWord, h, hd]

theorem coreTurn_of_none {s : State} (h : s.busy = true) (hd : decode s.command = none) :
    coreTurn s = .next (record .badCommand (clearBusy s)) := by
  simp [coreTurn, runWord, h, hd, execBad, raiseError]

/-- Everything the core's turn can do. -/
theorem coreTurn_cases {s t : State} (h : coreTurn s = .next t) :
    s.busy = false ∧ t = s ∨
    s.busy = true ∧ decode s.command = none ∧ t = record .badCommand (clearBusy s) ∨
    s.busy = true ∧ ∃ i, decode s.command = some i ∧ exec i (clearBusy s) = .next t := by
  cases hb : s.busy
  · rw [coreTurn_of_idle hb] at h
    cases h
    exact .inl ⟨rfl, rfl⟩
  · cases hd : decode s.command with
    | none =>
      rw [coreTurn_of_none hb hd] at h
      cases h
      exact .inr (.inl ⟨rfl, rfl, rfl⟩)
    | some i =>
      rw [coreTurn_of_some hb hd] at h
      exact .inr (.inr ⟨rfl, i, rfl, h⟩)

/-! ## Accesses -/

theorem windowOffset_eq_some {address off : Nat} (h : windowOffset address = some off) :
    address = Config.base + off ∧ off < 0x18000 := by
  unfold windowOffset windowBytes at h
  split at h
  · cases h; omega
  · cases h

theorem accepted_eq_true {off size : Nat} : accepted off size = true ↔ size = 4 ∧ off % 4 = 0 := by
  simp [accepted]

/-- Everything an access of the host can do (R38 to R42, R114, R117): only an accepted write outside reset and while
not busy changes more than the answer. -/
theorem hostAccess_cases {a : Access} {s t : State} (h : hostAccess a s = .next t) :
    (∃ r, t = respond r s) ∨ (∃ r, t = respond r (drawFree s)) ∨
    (∃ off v, a = .write (Config.base + off) 4 v ∧ off < 0x18000 ∧ off % 4 = 0 ∧ s.inReset = false ∧
      s.busy = false ∧ t = respond .written (writeLocation (locate off) v s)) := by
  cases a with
  | read address size =>
    simp only [hostAccess] at h
    split at h
    · cases h
    · unfold readOffset at h
      (repeat' split at h) <;> cases h
      · exact .inr (.inl ⟨_, rfl⟩)
      · exact .inl ⟨_, rfl⟩
      · exact .inr (.inl ⟨_, rfl⟩)
  | write address size v =>
    simp only [hostAccess] at h
    split at h
    · cases h
    · next off ho =>
      obtain ⟨rfl, hlt⟩ := windowOffset_eq_some ho
      unfold writeOffset at h
      split at h
      · cases h; exact .inl ⟨_, rfl⟩
      · next hr =>
        split at h
        · cases h
        · next hb =>
          split at h
          · next hacc =>
            obtain ⟨rfl, h4⟩ := accepted_eq_true.1 hacc
            cases h
            exact .inr (.inr ⟨off, v, rfl, hlt, h4, by simpa using hr, by simpa using hb, rfl⟩)
          · cases h; exact .inl ⟨_, rfl⟩

/-! ## The map (R36) -/

theorem registerAt_of_ge {off : Nat} (h : 0x2C ≤ off) : registerAt off = none := by
  unfold registerAt
  split <;> first | rfl | (exfalso; revert h; decide)

theorem locate_reserved_low {off : Nat} (h : 0x2C ≤ off) (h' : off < 0x4000) : locate off = .reserved := by
  unfold locate
  rw [if_pos h', registerAt_of_ge h]

theorem locate_inWord {i : Nat} (h : i < 4096) : locate (0x4000 + 4 * i) = .inWord i := by
  unfold locate
  rw [if_neg (by omega), if_pos (by omega)]
  congr 1
  omega

theorem locate_outWord {i : Nat} (h : i < 4096) : locate (0x8000 + 4 * i) = .outWord i := by
  unfold locate
  rw [if_neg (by omega), if_neg (by omega), if_pos (by omega)]
  congr 1
  omega

theorem locate_reserved_high {off : Nat} (h : 0xC000 ≤ off) (h' : off < 0x10000) : locate off = .reserved := by
  unfold locate
  rw [if_neg (by omega), if_neg (by omega), if_neg (by omega), if_pos h']

theorem locate_specWord (i : Nat) : locate (0x10000 + 4 * i) = .specWord i := by
  unfold locate
  rw [if_neg (by omega), if_neg (by omega), if_neg (by omega), if_neg (by omega)]
  congr 1
  omega

/-- An offset of the window leads to a word inside its buffer. -/
theorem locate_bounds {off : Nat} (h : off < 0x18000) :
    (∀ i, locate off = .inWord i → i < 4096) ∧ (∀ i, locate off = .outWord i → i < 4096) ∧
    (∀ i, locate off = .specWord i → i < 8192) := by
  unfold locate
  refine ⟨fun i => ?_, fun i => ?_, fun i => ?_⟩ <;> (repeat' split) <;> intro hl <;> cases hl <;> omega

end Sys2Proof.Machine
end

