-- ==== Sys2Proof/Tests/Slice0.lean ====
section
/-! SUPPORT. The model's own tests: ill-formed terms, words written out from spec/30_encoding.md, the vectors of
spec/95_test_vectors.md section 2, and one witness for every statement that has hypotheses. -/

namespace Sys2Proof.Tests

open Sys2Proof Sys2Proof.Machine Sys2Proof.Claims

/-! ## Well-formedness (30 R55): a reserved KIND is refused -/

theorem test_kind_2_ill_formed : Instr.wellFormed (.setWindow .forward 2) = false := by decide
theorem test_kind_3_ill_formed : Instr.wellFormed (.setWindow .inverse 3) = false := by decide
theorem test_kind_1_well_formed : Instr.wellFormed (.setWindow .inverse 1) = true := by decide

/-! ## Decoding: reserved(21 bits), KIND(2), A(1), OPC(8), written out from 30 R51 and R53; the words of 95 2.2 -/

theorem test_decode_nop : decode 0b000000000000000000000_00_0_00000000 = some .nop := by decide
theorem test_decode_configure : decode 0b000000000000000000000_00_0_00000001 = some .configure := by decide
theorem test_decode_set_window_forward_rect :
    decode 0b000000000000000000000_00_0_00000010 = some (.setWindow .forward 0) := by decide
theorem test_decode_set_window_forward_hann :
    decode 0b000000000000000000000_01_0_00000010 = some (.setWindow .forward 1) := by decide
theorem test_decode_set_window_inverse_rect :
    decode 0b000000000000000000000_00_1_00000010 = some (.setWindow .inverse 0) := by decide
theorem test_decode_set_window_inverse_hann :
    decode 0b000000000000000000000_01_1_00000010 = some (.setWindow .inverse 1) := by decide
theorem test_decode_enable_0 : decode 0b000000000000000000000_00_0_00000011 = some (.enable false) := by decide
theorem test_decode_enable_1 : decode 0b000000000000000000000_00_1_00000011 = some (.enable true) := by decide
theorem test_decode_analyze : decode 0b000000000000000000000_00_0_00010000 = some .analyze := by decide
theorem test_decode_rebuild : decode 0b000000000000000000000_00_0_00010001 = some .rebuild := by decide
theorem test_decode_synthesize : decode 0b000000000000000000000_00_0_00010010 = some .synthesize := by decide
theorem test_decode_update : decode 0b000000000000000000000_00_0_00010011 = some .update := by decide
theorem test_decode_xform_fwd : decode 0b000000000000000000000_00_0_00100000 = some .xformFwd := by decide
theorem test_decode_xform_inv : decode 0b000000000000000000000_00_0_00100001 = some .xformInv := by decide

/-- The BAD words of 95 2.2. -/
theorem test_decode_bad :
    (([0x402, 0x502, 0x602, 0x702, 0x203, 0x303, 0x100, 0x412, 0x800, 0x80000010, 0x04, 0x0F, 0x14, 0x22,
      0xFF] : List Word).all fun w => decode w == none) = true := by decide +kernel

/-- The sample word of each row of spec/opcode_table.json is numbered as the table numbers it. -/
theorem test_table_word : decodeTableWord 32 0x302 = some (.setWindow .inverse 1) := by decide

/-! ## States -/

/-- After a successful CONFIGURE with N = 16, B = 8. -/
def ready : State := { State.reset with reqN := 16, reqB := 8, cfgN := 16, cfgB := 8, configured := true }

/-- In the hook window. -/
def open16 : State := { ready with phase := .hook }

/-- The next state, if there is one. -/
def nextOf : Host.Outcome State Fault Refusal → Option State
  | .next s => some s
  | .fault _ => none
  | .refused _ => none

/-- REG.STATUS, REG.ERR and REG.WIN of the next state. -/
def flagsAfter (i : Instr) (s : State) : Option (Word × Word × Word) :=
  (nextOf (exec i s)).map fun t => (t.statusWord, t.errWord, t.winWord)

/-! ## Commands, against 95 2.4 to 2.12 -/

theorem test_configure_512_128 :
    flagsAfter .configure { State.reset with reqN := 512, reqB := 128 } = some (0x16, 0, 1) := by decide
theorem test_configure_16_3 :
    flagsAfter .configure { ready with reqN := 16, reqB := 3 } = some (0x04, 1, 1) := by decide

/-- 95 2.4: the sizes. -/
theorem test_valid_size :
    (([(0, 0), (16, 0), (16, 17), (16, 3), (24, 8), (8, 8), (8192, 8), (0x80000010, 16)] :
      List (Word × Word)).all fun p => !validSize p.1 p.2) = true ∧
    (([(16, 16), (16, 8), (16, 1), (512, 128), (4096, 1), (4096, 4096), (4096, 128)] :
      List (Word × Word)).all fun p => validSize p.1 p.2) = true := by decide

theorem test_set_window_inverse_hann : flagsAfter (.setWindow .inverse 1) ready = some (0x16, 0, 5) := by decide
theorem test_set_window_unconfigured :
    flagsAfter (.setWindow .inverse 1) State.reset = some (0x04, 2, 1) := by decide
theorem test_enable_0 : flagsAfter (.enable false) ready = some (0x02, 0, 1) := by decide
theorem test_enable_in_hook : flagsAfter (.enable true) open16 = some (0x1E, 5, 1) := by decide
theorem test_nop : nextOf (exec .nop open16) = some open16 := by decide

/-- 95 2.9: the impulse lands at ring index 8; STATUS 0x1E. -/
theorem test_analyze_active :
    ∃ t, exec .analyze { ready with inBuf := Memory.setWord [] 0 0x3F800000 } = .next t ∧
      t.statusWord = 0x1E ∧ t.errWord = 0 ∧ t.histWord 8 = 0x3F800000 ∧ t.histWord 0 = 0 :=
  ⟨_, rfl, by decide, by decide, by decide, by decide⟩

/-- Program P4 of 95: a NaN with payload passes through; ERR 2, STATUS 0x44. -/
theorem test_analyze_unconfigured :
    ∃ t, exec .analyze { State.reset with inBuf := Memory.setWord [] 2 0x7FC00001 } = .next t ∧
      t.statusWord = 0x44 ∧ t.errWord = 2 ∧ t.outWord 2 = 0x7FC00001 :=
  ⟨_, rfl, by decide, by decide, by decide⟩

/-- 95 2.8, the first two rows: bin 15 from bin 1, a NaN's payload kept, the sign bit flipped. -/
theorem test_rebuild :
    ∃ t, exec .rebuild { ready with
        specBuf := ((Memory.setWord [] 2 0x7FC00001).setWord 3 0x3F800000).setWord 30 0x40A00000 } = .next t ∧
      t.specWord 30 = 0x7FC00001 ∧ t.specWord 31 = 0xBF800000 ∧ t.specWord 2 = 0x7FC00001 :=
  ⟨_, rfl, by decide, by decide, by decide⟩
theorem test_rebuild_unconfigured : flagsAfter .rebuild State.reset = some (0x04, 2, 1) := by decide

/-- 95 2.10: STATUS 0x56 when delivered; 0x36, ERR 3 and DROP_COUNT wrapping when dropped. -/
theorem test_synthesize_delivered :
    ∃ t, exec .synthesize open16 = .next t ∧ t.statusWord = 0x56 ∧ t.errWord = 0 := by
  refine ⟨_, rfl, by decide, by decide⟩
theorem test_synthesize_dropped :
    ∃ t, exec .synthesize { open16 with outAllocOk := false, dropCount := 0xFFFFFFFF } = .next t ∧
      t.statusWord = 0x36 ∧ t.errWord = 3 ∧ t.dropCount = 0 := by
  refine ⟨_, rfl, by decide, by decide, by decide⟩

/-- 95 2.11, 2.12. -/
theorem test_update_active :
    ∃ t, exec .update ready = .next t ∧ t.statusWord = 0x56 ∧ t.errWord = 0 := by
  refine ⟨_, rfl, by decide, by decide⟩
theorem test_update_unconfigured :
    flagsAfter .update { State.reset with outAllocOk := false } = some (0x44, 2, 1) := by decide

theorem test_xform_fwd_in_hook : flagsAfter .xformFwd open16 = some (0x1E, 0, 1) := by decide
theorem test_xform_fwd_unconfigured : flagsAfter .xformFwd State.reset = some (0x04, 2, 1) := by decide
theorem test_xform_inv_in_hook : flagsAfter .xformInv open16 = some (0x1E, 0, 1) := by decide
theorem test_xform_inv_unconfigured : flagsAfter .xformInv State.reset = some (0x04, 2, 1) := by decide

/-- 95 2.12: BAD before SEQUENCE. -/
theorem test_bad_word :
    (nextOf (step (State.reset.withFetchWord 32 0x412))).map State.errWord = some 4 := by decide

/-- A placed word runs as the first command after reset. -/
theorem test_step_runs_word :
    (nextOf (step (State.reset.withFetchWord 32 0x003))).map State.statusWord = some 0 := by decide

/-! ## Numbers -/

/-- 95 2.1: the Hann table of N = 16, and points of other lengths. -/
theorem test_hann_16 :
    (List.range 16).map (hannWord 16) =
      [0x00000000, 0x3D1BE50C, 0x3E15F61A, 0x3E9E0875, 0x3F000000, 0x3F30FBC5, 0x3F5A827A, 0x3F7641AF,
       0x3F800000, 0x3F7641AF, 0x3F5A827A, 0x3F30FBC5, 0x3F000000, 0x3E9E0875, 0x3E15F61A, 0x3D1BE50C] := by
  decide +kernel
theorem test_hann_512_4096 :
    hannWord 512 1 = 0x381DE964 ∧ hannWord 4096 1 = 0x351DE9E4 ∧ hannWord 4096 1024 = 0x3F000000 := by
  decide +kernel

/-- By hand from IEEE 754: 1 + 1; 1 + 2^-24 is a tie that stays even; the next word after 1 plus 2^-24 is a tie that
goes up; the two smallest subnormals; the greatest word doubled; 3 - 3. -/
theorem test_fadd :
    fadd32 0x3F800000 0x3F800000 = 0x40000000 ∧ fadd32 0x3F800000 0x33800000 = 0x3F800000 ∧
    fadd32 0x3F800001 0x33800000 = 0x3F800002 ∧ fadd32 0x00000001 0x00000001 = 0x00000002 ∧
    fadd32 0x7F7FFFFF 0x7F7FFFFF = 0x7F800000 ∧ fadd32 0x40400000 0xC0400000 = 0x00000000 := by
  decide +kernel

/-- By hand: 1.5 * -2; 0.5 times the smallest subnormal is a tie to zero; 1.5 times it goes to 2 units; 2^127 * 2. -/
theorem test_fmul :
    fmul32 0x3FC00000 0xC0000000 = 0xC0400000 ∧ fmul32 0x3F000000 0x00000001 = 0x00000000 ∧
    fmul32 0x3FC00000 0x00000001 = 0x00000002 ∧ fmul32 0x7F000000 0x40000000 = 0x7F800000 := by
  decide +kernel

/-- 20 R37, 95 2.3: the lanes of 1.0, and the canonical form: a zero byte is not listed. -/
theorem test_lanes :
    (Memory.setWord [] 0 0x3F800000) = [(2, 0x80), (3, 0x3F)] ∧ State.reset.specBuf.wf := by decide

/-! ## Witnesses: states and operands that meet the hypotheses of each statement, clause by clause -/

/-- A host write of `w` to REG.CMD is next, the core's turn after it. -/
def writesCommand (w : Word) : State := { ready with agenda := [.host (.write Config.base 4 w), .core] }

/-- The word `w` is in progress. -/
def inProgress (w : Word) (agenda : List Event) : State :=
  { ready with busy := true, command := w, agenda := agenda }

/-- The host reads (or writes) 4 bytes at offset `off`. -/
def reads (off size : Nat) : State := { ready with agenda := [.host (.read (Config.base + off) size)] }
def writes (off size : Nat) (v : Word) : State :=
  { ready with agenda := [.host (.write (Config.base + off) size v)] }

theorem witness_DecodeAnswersExactlyTheEncodings :
    decode 0x00000302 = some (.setWindow .inverse 1) ∧ (Instr.setWindow .inverse 1).wellFormed = true ∧
    encode (.setWindow .inverse 1) = 0x00000302 := by decide

theorem witness_DecodingFollowsItsRule :
    decode 0x00000202 = some (.setWindow .forward 1) ∧ decode 0x00000402 = none ∧
    (∃ r ∈ opcodeRows, r.selects 0x00000202 = true) := by decide

theorem witness_StepRunsTheDecodedCommand :
    ((inProgress 0x10 []).busy = true ∧ (inProgress 0x10 []).agenda = [] ∧
      decode (inProgress 0x10 []).command = some .analyze ∧ Instr.wellFormed .analyze = true) ∧
    ((inProgress 0x302 [.core]).busy = true ∧ (inProgress 0x302 [.core]).agenda.head? = some .core ∧
      decode (inProgress 0x302 [.core]).command = some (.setWindow .inverse 1)) ∧
    decodeTableWord 32 0x13 = some .update := by decide

theorem witness_IllegalWordOnlyRecordsBadCommand :
    (inProgress 0x412 []).busy = true ∧ (inProgress 0x412 []).agenda = [] ∧
    (inProgress 0x402 [.core]).agenda.head? = some .core ∧
    decode (inProgress 0x412 []).command = none ∧ decode (inProgress 0x402 [.core]).command = none := by decide

theorem witness_HostCommandRunsToCompletion :
    (writesCommand 0x13).agenda = .host (.write Config.base 4 0x13) :: .core :: [] ∧
    (writesCommand 0x13).busy = false ∧ (writesCommand 0x13).inReset = false ∧
    decode 0x13 = some .update := ⟨rfl, rfl, rfl, by decide⟩

/-- One state for each of the three outcomes. -/
theorem witness_OnlyForbiddenAccessesStop :
    (∃ t, step (inProgress 0x13 []) = .next t) ∧
    ¬ InWindow (Config.base + 0x18000) ∧
    step { ready with agenda := [.host (.read (Config.base + 0x18000) 4)] } = .fault .outsideWindow ∧
    step { inProgress 0x13 [] with agenda := [.host (.read (Config.base + 8) 4)] } = .refused .busyAccess := by
  refine ⟨⟨_, rfl⟩, by simp [InWindow], ?_, ?_⟩
  · simp [step, nextTurn, takeEvent, hostAccess, windowOffset, windowBytes]
  · simp [step, nextTurn, takeEvent, hostAccess, windowOffset_base, readOffset, inProgress, ready, State.reset,
      accepted]

/-- 60 R100: a state for each code. -/
theorem witness_StatusRegistersHaveTheirFields :
    ([.none, .sizeUnsupported, .notConfigured, .allocationFailure, .badCommand, .sequence] : List ErrCode).map
      (fun c => ({ ready with err := c } : State).errWord) = [0, 1, 2, 3, 4, 5] := by decide

theorem witness_NopHasNoEffect : fieldOpc 0x100 = 0x00 ∧ (0x100 : Word) ≠ 0 ∧ decode 0x100 = none := by decide

theorem witness_ValidSizesArePowersOfTwo :
    validSize 16 1 = true ∧ validSize 4096 4096 = true ∧ validSize 8192 8 = false := by decide

theorem witness_ConfigureFollowsItsRule :
    open16.phase = .hook ∧
    (State.reset.phase = .idle ∧ validSize State.reset.reqN State.reset.reqB = false) ∧
    (State.reset.phase = .idle ∧ State.reset.reqN.toNat ∉ [16, 32, 64, 128, 256, 512, 1024, 2048, 4096]) ∧
    (ready.phase = .idle ∧ validSize ready.reqN ready.reqB = true) := by decide

theorem witness_SetWindowFollowsItsRule :
    fieldOpc 0x402 = 0x02 ∧ 2 ≤ (fieldKind 0x402).toNat ∧ fieldOpc 0x602 = 0x02 ∧ 2 ≤ (fieldKind 0x602).toNat ∧
    (0 : BitVec 2).toNat < 2 ∧ (1 : BitVec 2).toNat < 2 ∧ open16.phase = .hook ∧
    (State.reset.phase = .idle ∧ State.reset.configured = false) ∧
    (ready.phase = .idle ∧ ready.configured = true) := by decide

theorem witness_ReservedKindIsBadCommand :
    2 ≤ (2 : BitVec 2).toNat ∧ 2 ≤ (3 : BitVec 2).toNat := by decide

theorem witness_EnableFollowsItsRule : open16.phase = .hook ∧ ready.phase = .idle := by decide

theorem witness_ErrorsFollowTheCodeTable :
    Instr.wellFormed (.setWindow .forward 1) = true ∧
    reportedError .configure open16 = some .sequence ∧ reportedError .synthesize ready = some .sequence ∧
    reportedError .rebuild State.reset = some .notConfigured ∧ reportedError .nop ready = none := by decide

theorem witness_PhaseChangesOnlyByTheCycle :
    (∃ t, exec .analyze ready = .next t ∧ t.phase ≠ ready.phase) ∧
    (∃ t, exec .synthesize open16 = .next t ∧ t.phase ≠ open16.phase) :=
  ⟨⟨_, rfl, by decide⟩, ⟨_, rfl, by decide⟩⟩

theorem witness_SettingsChangeOnlyByTheirCommands :
    (∃ t, exec .update ready = .next t) ∧ (∃ t, exec .configure ready = .next t) ∧
    (∃ t, exec (.enable false) ready = .next t) ∧ (∃ t, exec (.setWindow .inverse 1) ready = .next t) :=
  ⟨⟨_, rfl⟩, ⟨_, rfl⟩, ⟨_, rfl⟩, ⟨_, rfl⟩⟩

theorem witness_OnlyConfigureReadsTheSampleRate :
    (Instr.analyze ≠ .configure) ∧ (ready.phase = .idle ∧ validSize ready.reqN ready.reqB = true) ∧
    ¬ (open16.phase = .idle ∧ validSize open16.reqN open16.reqB = true) := by decide

theorem witness_WordsBeyondTheLengthAreKept :
    ready.configOk ∧ open16.configOk ∧ Instr.analyze ≠ .configure ∧
    (∃ t, exec .analyze ready = .next t) ∧ (∃ t, exec .synthesize open16 = .next t) :=
  ⟨by decide, by decide, by decide, ⟨_, rfl⟩, ⟨_, rfl⟩⟩

theorem witness_OutValidChangesOnlyByItsWriters :
    (∃ t, exec .configure { ready with outValid := true } = .next t ∧ t.outValid ≠ true) ∧
    (∃ t, exec .analyze State.reset = .next t ∧ t.outValid ≠ State.reset.outValid) ∧
    (∃ t, exec .synthesize open16 = .next t ∧ t.outValid ≠ open16.outValid) ∧
    (∃ t, exec .update ready = .next t ∧ t.outValid ≠ ready.outValid) :=
  ⟨⟨_, rfl, by decide⟩, ⟨_, rfl, by decide⟩, ⟨_, rfl, by decide⟩, ⟨_, rfl, by decide⟩⟩

/-- A dropped emission, and the release of reset. -/
theorem witness_DropCountChangesOnlyByDropsAndReset :
    (∃ t, step { open16 with busy := true, command := 0x12, outAllocOk := false } = .next t ∧
      t.dropCount ≠ open16.dropCount) ∧
    (∃ t, step { ready with dropCount := 7, inReset := true, agenda := [.resetInput false] } = .next t ∧
      t.dropCount ≠ 7) :=
  ⟨⟨_, rfl, by decide⟩, ⟨_, rfl, by decide⟩⟩

theorem witness_ForwardTransformFollowsItsRule :
    State.reset.configured = false ∧ ready.configured = true ∧ 31 < 2 * ready.transformLen := by decide

theorem witness_InverseTransformFollowsItsRule :
    State.reset.configured = false ∧ open16.configured = true ∧ 31 < 2 * open16.transformLen := by decide

theorem witness_TransformsMeetTheAccuracyBound :
    ready.configured = true ∧ 0 < ready.transformLen ∧ ready.invKind = .rect ∧
    (∀ p < 2 * ready.transformLen,
      fpIsFinite (windowed ready.fwdKind ready.transformLen p (ready.specWord p)) = true) ∧
    (∀ p < 2 * ready.transformLen, fpIsFinite (ready.specWord p) = true) := by decide +kernel

theorem witness_TransformsOfZerosAreZeros :
    ready.configured = true ∧ ∀ p < 2 * ready.transformLen, IsZeroWord (ready.specWord p) :=
  ⟨rfl, fun p _ => .inl (Memory.getWord_zeroed p)⟩

theorem witness_ExactTransformsAreInverse : 0 < 16 ∧ 15 < 16 := by decide

theorem witness_ExactSpectrumOfRealSamplesIsHermitian :
    0 < 16 ∧ (∀ n < 16, ((fun _ => 1 : Nat → ℂ) n).im = 0) ∧ 1 ≤ 15 ∧ 15 < 16 ∧ 16 % 2 = 0 := by simp

theorem witness_WindowCoefficientsAreCorrectlyRounded :
    (4 ≤ 4 ∧ 4 ≤ 12 ∧ 0 < 2 ^ 4) ∧ (4 ≤ 12 ∧ 12 ≤ 12 ∧ 4095 < 2 ^ 12) := by decide

theorem witness_HannTableHasItsProperties :
    (4 ≤ 4 ∧ 4 ≤ 12 ∧ 1 ≤ 1 ∧ 1 < 2 ^ 4) ∧ (4 ≤ 12 ∧ 12 ≤ 12 ∧ 1 ≤ 4095 ∧ 4095 < 2 ^ 12) := by decide

theorem witness_ExactOverlapGains : 0 < 2 ∧ 2 ≤ 2 ∧ 3 ≤ 3 ∧ 1 < 2 := by decide

/-- Finite addends, below the overflow bound and at it. -/
theorem witness_AdditionIsCorrectlyRounded :
    fpIsFinite 0x3F800000 = true ∧ fpIsFinite 0x7F7FFFFF = true ∧ fpIsFinite 0x73000000 = true ∧
    |fpVal 0x3F800000 + fpVal 0x3F800000| < 2 ^ 128 - 2 ^ 103 ∧
    2 ^ 128 - 2 ^ 103 ≤ |fpVal 0x7F7FFFFF + fpVal 0x73000000| := by decide +kernel

/-- The last product is the midpoint itself: 2^25 - 1 = 31 * 1082401. -/
theorem witness_MultiplicationIsCorrectlyRounded :
    fpIsFinite 0x3FC00000 = true ∧ fpIsFinite 0x43780000 = true ∧ fpIsFinite 0x7B842108 = true ∧
    |fpVal 0x3FC00000 * fpVal 0x3FC00000| < 2 ^ 128 - 2 ^ 103 ∧
    |fpVal 0x43780000 * fpVal 0x7B842107| < 2 ^ 128 - 2 ^ 103 ∧
    fpVal 0x43780000 * fpVal 0x7B842108 = 2 ^ 128 - 2 ^ 103 ∧
    2 ^ 128 - 2 ^ 103 ≤ |fpVal 0x43780000 * fpVal 0x7B842108| := by decide +kernel

theorem witness_SpecialOperandsFollowTheStandard :
    fpIsNaN 0x7F800001 = true ∧
    (fpIsInf 0x7F800000 = true ∧ fpIsInf 0xFF800000 = true ∧ fpSign 0x7F800000 ≠ fpSign 0xFF800000) ∧
    (fpIsFinite 0x7F7FFFFF = true ∧ fpIsZero 0x00000000 = true ∧ fpIsZero 0x80000000 = true) ∧
    (fpIsNaN 0x00000001 = false ∧ fpIsZero 0x00000001 = false ∧ fpIsNaN 0xFF800000 = false ∧
      fpIsZero 0xFF800000 = false) ∧
    fpVal 0x3F800000 + fpVal 0xBF800000 = 0 ∧ fpVal 0x80000000 + fpVal 0x80000000 = 0 ∧
    fpVal 0x3F800000 + fpVal 0x3F800000 ≠ 0 := by decide +kernel

theorem witness_RebuildFollowsItsRule :
    State.reset.Inv ∧ State.reset.configured = false ∧ ready.Inv ∧ ready.configured = true ∧
    1 ≤ 7 ∧ 7 < ready.transformLen / 2 :=
  ⟨by decide, by decide, by decide, by decide, by decide, by decide⟩

/-- The second state differs in bin 15 only; the host writes the last word of SPEC. -/
theorem witness_WritesAboveNyquistAreHarmless :
    (8191 < 8192 ∧ open16.phase = .hook ∧ open16.busy = false ∧ open16.inReset = false) ∧
    ({ open16 with agenda := [.host (.write (Config.base + 0x10000 + 4 * 8191) 4 5)] } : State).agenda =
      [.host (.write (Config.base + 0x10000 + 4 * 8191) 4 5)] ∧
    open16.Inv ∧
    ∀ p < 2 * (open16.transformLen / 2 + 1),
      State.specWord { open16 with specBuf := Memory.setWord [] 30 0x40A00000 } p = open16.specWord p :=
  ⟨by decide, rfl, by decide, by decide +kernel⟩

theorem witness_AnalyzeFollowsItsRule :
    (open16.Inv ∧ open16.phase = .hook) ∧
    (State.reset.Inv ∧ State.reset.phase = .idle ∧ State.reset.configured = false) ∧
    (ready.Inv ∧ ready.phase = .idle ∧ ready.configured = true ∧ ready.enable = true) :=
  ⟨⟨by decide, by decide⟩, ⟨by decide, by decide, by decide⟩, ⟨by decide, by decide, by decide, by decide⟩⟩

theorem witness_InactiveCyclePassesThrough :
    State.reset.phase = .idle ∧ State.reset.configured = false ∧
    State.reset.phaseOk ∧ ({ ready with enable := false } : State).enable = false ∧
    ({ ready with enable := false } : State).phaseOk := by decide

/-- Two active ANALYZE commands, the ring carried from the first to the second. -/
theorem witness_RingHoldsTheLatestSamples :
    (∀ t < 2, ∃ u, exec .analyze (if t = 0 then ready else { ready with histBuf := (openCycle ready).histBuf }) =
      .next u) ∧
    (∀ s, s = ready ∨ s = { ready with histBuf := (openCycle ready).histBuf } →
      s.phase = .idle ∧ s.configured = true ∧ s.enable = true ∧ validSize s.cfgN s.cfgB = true ∧
      s.transformLen = 16 ∧ s.blockLen = 8) ∧
    (∀ u, exec .analyze ready = .next u →
      ({ ready with histBuf := (openCycle ready).histBuf } : State).histBuf = u.histBuf) ∧
    ∀ n < 16, ready.histWord n = 0 := by
  refine ⟨fun t _ => ?_, ?_, ?_, fun n _ => Memory.getWord_zeroed n⟩
  · by_cases h : t = 0 <;> simp only [h] <;> exact ⟨_, rfl⟩
  · rintro s (rfl | rfl) <;> exact ⟨rfl, rfl, rfl, by decide, rfl, rfl⟩
  · rintro u ⟨⟩
    rfl

theorem witness_SynthesizeFollowsItsRule :
    ready.phase = .idle ∧ open16.Inv ∧ open16.phase = .hook ∧ open16.outAllocOk = true ∧
    ({ open16 with outAllocOk := false } : State).outAllocOk = false := by decide

/-- In the hook window, with no output block to be had. -/
def dropping : State := { open16 with outAllocOk := false }

/-- Two SYNTHESIZE commands, the first dropped, the second delivered, the ring carried from the first to the second. -/
theorem witness_EmittedBlockIsTheOverlapSum :
    (∀ t < 2, ∃ u,
      exec .synthesize (if t = 0 then dropping else { open16 with accBuf := (synthesizeBody dropping).accBuf }) =
        .next u) ∧
    (∀ s, s = dropping ∨ s = { open16 with accBuf := (synthesizeBody dropping).accBuf } →
      s.phase = .hook ∧ validSize s.cfgN s.cfgB = true ∧ s.transformLen = 16 ∧ s.blockLen = 8) ∧
    dropping.outAllocOk = false ∧
    ({ open16 with accBuf := (synthesizeBody dropping).accBuf } : State).outAllocOk = true ∧
    (∀ u, exec .synthesize dropping = .next u →
      ({ open16 with accBuf := (synthesizeBody dropping).accBuf } : State).accBuf = u.accBuf) ∧
    ∀ n < 16, dropping.accWord n = 0 := by
  refine ⟨fun t _ => ?_, ?_, rfl, rfl, ?_, fun n _ => Memory.getWord_zeroed n⟩
  · by_cases h : t = 0 <;> simp only [h] <;> exact ⟨_, rfl⟩
  · rintro s (rfl | rfl) <;> exact ⟨rfl, by decide, rfl, rfl⟩
  · rintro u ⟨⟩
    rfl

theorem witness_UpdateIsAnalyzeThenSynthesize :
    open16.phase = .hook ∧ (State.reset.phase = .idle ∧ State.reset.active = false) ∧
    (ready.phase = .idle ∧ ready.active = true) := by decide

/-- The common hypotheses hold at every clause's boundary offsets. -/
theorem witness_HostReadFollowsTheMap :
    ∀ off ∈ [0x000, 0x004, 0x008, 0x00C, 0x010, 0x014, 0x018, 0x01C, 0x020, 0x024, 0x028, 0x02C, 0x3FFC,
        0x4000 + 4 * 0, 0x4000 + 4 * 4095, 0x8000 + 4 * 0, 0x8000 + 4 * 4095, 0xC000, 0xFFFC, 0x10000 + 4 * 0,
        0x10000 + 4 * 8191],
      (reads off 4).agenda = .host (.read (Config.base + off) 4) :: [] ∧ (reads off 4).inReset = false ∧
        (reads off 4).busy = false ∧ off % 4 = 0 ∧ off < 0x18000 := by
  intro off h
  refine ⟨rfl, rfl, rfl, ?_⟩
  revert off
  decide

theorem witness_HostWriteFollowsTheMap :
    ∀ off ∈ [0x000, 0x004, 0x008, 0x00C, 0x010, 0x014, 0x018, 0x3FFC, 0x4000 + 4 * 0, 0x4000 + 4 * 4095, 0x8000,
        0xFFFC, 0x10000 + 4 * 0, 0x10000 + 4 * 8191],
      (writes off 4 0x12345678).agenda = .host (.write (Config.base + off) 4 0x12345678) :: [] ∧
        (writes off 4 0x12345678).inReset = false ∧ (writes off 4 0x12345678).busy = false ∧
        off % 4 = 0 ∧ off < 0x18000 := by
  intro off h
  refine ⟨rfl, rfl, rfl, ?_⟩
  revert off
  decide

/-- 95 2.3: a read at 0x8002, a 2-byte write at REQ_N, an 8-byte read at IN[0]. -/
theorem witness_BusErrorChangesNoCoreState :
    (reads 0x8002 4).agenda = [.host (.read (Config.base + 0x8002) 4)] ∧ 0x8002 % 4 ≠ 0 ∧
    (writes 0x010 2 5).agenda = [.host (.write (Config.base + 0x010) 2 5)] ∧ (2 : Nat) ≠ 4 ∧
    (reads 0x4000 8).agenda = [.host (.read (Config.base + 0x4000) 8)] ∧ (8 : Nat) ≠ 4 ∧
    (reads 0x8002 4).inReset = false ∧ (reads 0x8002 4).busy = false :=
  ⟨rfl, by decide, rfl, by decide, rfl, by decide, rfl, rfl⟩

theorem witness_BusyAllowsOnlyStatusReads :
    (inProgress 0x10 [.host (.read (Config.base + 4) 4)]).agenda = [.host (.read (Config.base + 4) 4)] ∧
    (inProgress 0x10 [.host (.read (Config.base + 8) 4)]).agenda = [.host (.read (Config.base + 8) 4)] ∧
    (inProgress 0x10 [.host (.write (Config.base + 8) 4 0)]).agenda = [.host (.write (Config.base + 8) 4 0)] ∧
    (inProgress 0x10 []).busy = true ∧ (inProgress 0x10 []).inReset = false ∧ 8 < 0x18000 :=
  ⟨rfl, rfl, rfl, rfl, rfl, by decide⟩

theorem witness_ResetFollowsItsRule :
    (inProgress 0x10 [.resetInput true]).agenda = [.resetInput true] ∧
    ({ ready with inReset := true, agenda := [.host (.read (Config.base + 4) 4)] } : State).agenda =
      [.host (.read (Config.base + 4) 4)] ∧
    InWindow (addressOf (.read (Config.base + 4) 4)) ∧ InWindow (addressOf (.write (Config.base + 0x17FFF) 1 0)) ∧
    ¬ InWindow (addressOf (.read (Config.base + 0x18000) 4)) ∧
    ({ ready with inReset := true, agenda := [.resetInput false] } : State).agenda = [.resetInput false] ∧
    ({ ready with inReset := true } : State).inReset = true :=
  ⟨rfl, rfl, by simp [InWindow, addressOf], by simp [InWindow, addressOf], by simp [InWindow, addressOf], rfl, rfl⟩

/-- A step that opens a cycle, from a state that meets the invariant. -/
theorem witness_StepKeepsTheInvariant :
    (inProgress 0x10 []).Inv ∧ ∃ t, step (inProgress 0x10 []) = .next t ∧ t.phase = .hook :=
  ⟨by decide, _, rfl, by decide⟩

end Sys2Proof.Tests
end

/-! SUPPORT and PROOFS of the family 00_scope: binary32 addition and multiplication round the exact result to nearest,
ties to even, and follow the standard on special operands (spec/00_scope.md R11). -/

namespace Sys2Proof.Proofs.Binary32

open Sys2Proof.Machine Sys2Proof.Claims

/-! ## Signed magnitudes -/

/-- The integer that a sign and a magnitude stand for, as `fpUnits` reads them off a word. -/
def signedMag (s : Bool) (m : Nat) : Int := if s then -(m : Int) else (m : Int)

theorem fpUnits_eq_signedMag (w : Word) : fpUnits w = signedMag (fpSign w) (fpMag w) := rfl

theorem fpUnits_fpPack_eq_signedMag {sign : Bool} {bits : Nat} (h : bits ≤ fpInfBits) :
    fpUnits (fpPack sign bits) = signedMag sign (fpMag (fpPack false bits)) := by
  rw [fpUnits_fpPack h]
  cases sign <;> simp [signedMag]

@[simp] theorem natAbs_signedMag (s : Bool) (m : Nat) : (signedMag s m).natAbs = m := by
  cases s <;> simp [signedMag]

theorem signedMag_natAbs (u : Int) : signedMag (decide (u < 0)) u.natAbs = u := by
  rcases lt_or_ge u 0 with h | h
  · simp [signedMag, h, abs_of_neg h]
  · simp [signedMag, not_lt.2 h, abs_of_nonneg h]

theorem signedMag_mul (s t : Bool) (m n : Nat) :
    signedMag s m * signedMag t n = signedMag (s != t) (m * n) := by
  cases s <;> cases t <;> simp [signedMag]

@[simp] theorem signedMag_zero (s : Bool) : signedMag s 0 = 0 := by
  cases s <;> rfl

theorem signedMag_eq_or_eq_neg (s t : Bool) (m : Nat) :
    signedMag s m = signedMag t m ∨ signedMag s m = -signedMag t m := by
  cases s <;> cases t <;> simp [signedMag]

/-- The distance from `m` does not depend on a sign that both sides carry. -/
theorem abs_signedMag_mul_sub (s : Bool) (x m : Nat) (p : Int) :
    |signedMag s x * p - signedMag s m| = |(x : Int) * p - m| := by
  cases s
  · rfl
  · rw [← abs_neg]
    simp only [signedMag, if_true]
    ring_nf

/-- Across zero the distances add up. -/
theorem abs_neg_signedMag_mul_sub (s : Bool) (x m : Nat) {p : Int} (hp : 0 < p) :
    |-signedMag s x * p - signedMag s m| = (x : Int) * p + m := by
  have hsum : 0 ≤ (x : Int) * p + m := by positivity
  cases s
  · rw [← abs_of_nonneg hsum, ← abs_neg]
    simp only [signedMag, Bool.false_eq_true, if_false]
    ring_nf
  · rw [← abs_of_nonneg hsum]
    simp only [signedMag, if_true]
    ring_nf

/-! ## Rounding with a sign -/

/-- No finite word is nearer to `m * 2^-k` units with a sign than the packed rounding of `m`, and one as near only if
the rounding is even. -/
theorem fpUnits_roundMag_nearest {m k : Nat} (sign : Bool) (h : roundMag m k < fpInfBits) (v : Word) :
    |fpUnits (fpPack sign (roundMag m k)) * 2 ^ k - signedMag sign m| ≤
      |fpUnits v * 2 ^ k - signedMag sign m| ∧
    (|fpUnits (fpPack sign (roundMag m k)) * 2 ^ k - signedMag sign m| =
        |fpUnits v * 2 ^ k - signedMag sign m| →
      fpUnits v ≠ fpUnits (fpPack sign (roundMag m k)) → roundMag m k % 2 = 0) := by
  obtain ⟨hle, htie⟩ := roundMag_nearest h v
  rw [fpUnits_fpPack_eq_signedMag h.le, abs_signedMag_mul_sub]
  by_cases hv : fpUnits v = signedMag sign (fpMag v)
  · rw [hv, abs_signedMag_mul_sub]
    exact ⟨hle, fun heq hne => htie heq fun hmag => hne (by rw [hmag])⟩
  · -- `v` has the other sign and is not zero, so it lies farther away than zero does.
    have hneg : fpUnits v = -signedMag sign (fpMag v) := (signedMag_eq_or_eq_neg _ _ _).resolve_left hv
    have hpos : 0 < fpMag v :=
      Nat.pos_of_ne_zero fun h0 => hv (by rw [hneg, h0, signedMag_zero, neg_zero])
    have hzero := (roundMag_nearest h 0).1
    rw [show fpMag 0 = 0 by decide, Nat.cast_zero, zero_mul, zero_sub, abs_neg, Nat.abs_cast] at hzero
    have hfar : 0 < (fpMag v : Int) * 2 ^ k := by positivity
    rw [hneg, abs_neg_signedMag_mul_sub sign _ _ (by positivity)]
    exact ⟨by omega, fun heq => by omega⟩

theorem fpVal_inj {v w : Word} : fpVal v = fpVal w ↔ fpUnits v = fpUnits w := by
  simp [fpVal, div_left_inj']

/-- The distance of a word's value from `t * 2^-(149+k)`, in those units. -/
theorem abs_fpVal_sub (w : Word) (t : Int) (k : Nat) :
    |((fpVal w : ℚ) : ℝ) - (((t : ℚ) / 2 ^ (149 + k) : ℚ) : ℝ)| =
      ((|fpUnits w * 2 ^ k - t| : Int) : ℝ) / 2 ^ (149 + k) := by
  have hval : ((fpVal w : ℚ) : ℝ) - (((t : ℚ) / 2 ^ (149 + k) : ℚ) : ℝ) =
      ((fpUnits w * 2 ^ k - t : Int) : ℝ) / 2 ^ (149 + k) := by
    unfold fpVal
    push_cast
    rw [pow_add]
    field_simp
  rw [hval, abs_div, Int.cast_abs, abs_of_pos (by positivity : (0 : ℝ) < 2 ^ (149 + k))]

/-- Below overflow the packed rounding is the nearest word. -/
theorem isNearest_fpPack_roundMag {m k : Nat} (sign : Bool) (h : roundMag m k < fpInfBits) :
    IsNearestBinary32 (((signedMag sign m : ℚ) / 2 ^ (149 + k) : ℚ) : ℝ) (fpPack sign (roundMag m k)) := by
  refine ⟨fpIsFinite_fpPack h, fun v _ => ?_⟩
  obtain ⟨hle, htie⟩ := fpUnits_roundMag_nearest sign h v
  have hunit : (0 : ℝ) < 2 ^ (149 + k) := by positivity
  rw [abs_fpVal_sub, abs_fpVal_sub, div_le_div_iff_of_pos_right hunit, div_left_inj' hunit.ne', Int.cast_le,
    Int.cast_inj, Ne, fpVal_inj, lsb_fpPack h.le]
  exact ⟨hle, fun heq hne => by simp [htie heq hne]⟩

/-- The overflow bound in units of `2^-(149+k)`. -/
theorem abs_lt_overflow_iff (sign : Bool) (m k : Nat) :
    |(signedMag sign m : ℚ) / 2 ^ (149 + k)| < 2 ^ 128 - 2 ^ 103 ↔ roundMag m k < fpInfBits := by
  have habs : |(signedMag sign m : ℚ)| = m := by
    rw [← Int.cast_abs, Int.abs_eq_natAbs, natAbs_signedMag, Int.cast_natCast]
  have hbound : ((2 : ℚ) ^ 128 - 2 ^ 103) * 2 ^ (149 + k) = ((2 ^ 25 - 1) * 2 ^ (252 + k) : Nat) := by
    rw [Nat.cast_mul, pow_add, Nat.cast_pow, pow_add (_ : ℚ) 252]
    norm_num
    ring
  rw [roundMag_lt_iff, abs_div, habs, abs_of_pos (by positivity : (0 : ℚ) < 2 ^ (149 + k)),
    div_lt_iff₀ (by positivity), hbound, Nat.cast_lt]

theorem fpPack_fpInfBits (sign : Bool) : fpPack sign fpInfBits = signedInf sign := by
  cases sign <;> decide

theorem fpPack_zero (sign : Bool) : fpPack sign 0 = signedZero sign := by
  cases sign <;> decide

/-- Whatever the exact value `t * 2^-(149+k)`, packing its sign and its rounded magnitude rounds it correctly: to the
nearest word, or from the overflow bound on to the infinity of its sign. -/
theorem fpPack_roundMag_correct {q : ℚ} {sign : Bool} {m k : Nat} (hq : q = signedMag sign m / 2 ^ (149 + k)) :
    (|q| < 2 ^ 128 - 2 ^ 103 → IsNearestBinary32 (q : ℝ) (fpPack sign (roundMag m k))) ∧
    (2 ^ 128 - 2 ^ 103 ≤ |q| → fpPack sign (roundMag m k) = if q < 0 then 0xFF800000 else 0x7F800000) := by
  subst hq
  constructor
  · intro hlt
    exact isNearest_fpPack_roundMag sign ((abs_lt_overflow_iff sign m k).1 hlt)
  · intro hge
    have hinf : roundMag m k = fpInfBits :=
      le_antisymm (roundMag_le m k) (not_lt.1 ((abs_lt_overflow_iff sign m k).not.1 (not_lt.2 hge)))
    have hm : 0 < m := by
      rw [Nat.pos_iff_ne_zero]
      rintro rfl
      exact absurd hinf (ne_of_lt ((roundMag_lt_iff 0 k).2 (by positivity)))
    have hsign : (signedMag sign m : ℚ) / 2 ^ (149 + k) < 0 ↔ sign = true := by
      rw [div_lt_iff₀ (by positivity), zero_mul, Int.cast_lt_zero]
      cases sign <;> simp [signedMag, hm]
    rw [hinf, fpPack_fpInfBits, signedInf]
    simp only [hsign]

/-! ## The exact sum and product -/

theorem fpVal_add (a b : Word) : fpVal a + fpVal b = ((fpUnits a + fpUnits b : Int) : ℚ) / 2 ^ 149 := by
  unfold fpVal
  push_cast
  ring

theorem fpVal_mul (a b : Word) :
    fpVal a * fpVal b = (signedMag (fpSign a != fpSign b) (fpMag a * fpMag b) : ℚ) / 2 ^ (149 + 149) := by
  rw [← signedMag_mul, ← fpUnits_eq_signedMag, ← fpUnits_eq_signedMag, pow_add]
  unfold fpVal
  push_cast
  ring

/-- The sign that a sum of finite words gets: the sum's own, or both addends' when it is zero. -/
def sumSign (a b : Word) : Bool :=
  if fpUnits a + fpUnits b = 0 then fpSign a && fpSign b else decide (fpUnits a + fpUnits b < 0)

/-- Addition packs one rounding, a sum of zero included. -/
theorem fadd32_eq_fpPack {a b : Word} (ha : fpIsFinite a = true) (hb : fpIsFinite b = true) :
    fadd32 a b = fpPack (sumSign a b) (roundMag (fpUnits a + fpUnits b).natAbs 0) := by
  rw [fadd32_of_finite ha hb, sumSign]
  split
  · next h0 => rw [h0]; rfl
  · rfl

theorem signedMag_sumSign (a b : Word) :
    signedMag (sumSign a b) (fpUnits a + fpUnits b).natAbs = fpUnits a + fpUnits b := by
  unfold sumSign
  split
  · next h0 => rw [h0, Int.natAbs_zero, signedMag_zero]
  · exact signedMag_natAbs _

/-- Settles O30: the sum's units are an integer, and addition packs their rounding. -/
theorem additionIsCorrectlyRounded : Obligations.AdditionIsCorrectlyRounded := by
  intro a b ha hb
  rw [fadd32_eq_fpPack ha hb]
  exact fpPack_roundMag_correct (by rw [signedMag_sumSign, fpVal_add])

/-- Settles O31: the product of the magnitudes counts units of 2^-298, and multiplication packs its rounding. -/
theorem multiplicationIsCorrectlyRounded : Obligations.MultiplicationIsCorrectlyRounded := by
  intro a b ha hb
  rw [fmul32_of_finite ha hb]
  exact fpPack_roundMag_correct (fpVal_mul a b)

/-! ## The kinds of words -/

theorem fpIsInf_iff (a : Word) : fpIsInf a = true ↔ fpExp a = 255 ∧ fpFrac a = 0 := by
  simp [fpIsInf]

theorem fpIsZero_iff (a : Word) : fpIsZero a = true ↔ fpExp a = 0 ∧ fpFrac a = 0 := by
  simp [fpIsZero]

theorem not_nan_of_inf {a : Word} (h : fpIsInf a = true) : fpIsNaN a = false := by
  simp [fpIsNaN, ((fpIsInf_iff a).1 h).2]

theorem not_zero_of_inf {a : Word} (h : fpIsInf a = true) : fpIsZero a = false := by
  simp [fpIsZero, ((fpIsInf_iff a).1 h).1]

theorem finite_of_zero {a : Word} (h : fpIsZero a = true) : fpIsFinite a = true := by
  simp [fpIsFinite, ((fpIsZero_iff a).1 h).1]

theorem inf_or_finite {a : Word} (h : fpIsNaN a = false) : fpIsInf a = true ∨ fpIsFinite a = true := by
  simp only [fpIsNaN, Bool.and_eq_false_iff, beq_eq_false_iff_ne, bne_eq_false_iff_eq] at h
  by_cases he : fpExp a = 255
  · exact .inl ((fpIsInf_iff a).2 ⟨he, h.resolve_left (not_not.2 he)⟩)
  · exact .inr (by simp [fpIsFinite, he])

theorem fpMag_of_zero {a : Word} (h : fpIsZero a = true) : fpMag a = 0 := by
  obtain ⟨hexp, hfrac⟩ := (fpIsZero_iff a).1 h
  rw [fpMag, if_pos hexp, hfrac]

/-- A word is its sign, exponent and fraction (R37). -/
theorem toNat_fields (w : Word) :
    w.toNat = (if fpSign w then 2 ^ 31 else 0) + (fpExp w * 2 ^ 23 + fpFrac w) ∧
    fpExp w < 2 ^ 8 ∧ fpFrac w < 2 ^ 23 := by
  have hw : w.toNat < 2 ^ 32 := w.isLt
  have hsign : fpSign w = decide (w.toNat / 2 ^ 31 % 2 = 1) := by
    rw [fpSign, BitVec.getLsbD, Nat.testBit_eq_decide_div_mod_eq]
  rw [hsign]
  simp only [fpExp, fpFrac, BitVec.extractLsb'_toNat, Nat.shiftRight_eq_div_pow, decide_eq_true_eq]
  split <;> omega

/-- Packing the fields of a word that is no NaN gives the word back. -/
theorem fpPack_fields {w : Word} (h : fpExp w * 2 ^ 23 + fpFrac w ≤ fpInfBits) :
    fpPack (fpSign w) (fpExp w * 2 ^ 23 + fpFrac w) = w := by
  apply BitVec.eq_of_toNat_eq
  rw [toNat_fpPack h, (toNat_fields w).1]

theorem signedInf_fpSign {a : Word} (h : fpIsInf a = true) : signedInf (fpSign a) = a := by
  obtain ⟨hexp, hfrac⟩ := (fpIsInf_iff a).1 h
  have hbits : fpExp a * 2 ^ 23 + fpFrac a = fpInfBits := by rw [hexp, hfrac]; rfl
  rw [← fpPack_fpInfBits, ← hbits, fpPack_fields hbits.le]

/-! ## Special operands -/

theorem fadd32_of_nan {a b : Word} (h : fpIsNaN a = true ∨ fpIsNaN b = true) :
    fadd32 a b = Config.nanOut .add a b := by
  simp [fadd32, h]

theorem fmul32_of_nan {a b : Word} (h : fpIsNaN a = true ∨ fpIsNaN b = true) :
    fmul32 a b = Config.nanOut .mul a b := by
  simp [fmul32, h]

theorem fadd32_opposite_infs {a b : Word} (ha : fpIsInf a = true) (hb : fpIsInf b = true)
    (hs : fpSign a ≠ fpSign b) : fadd32 a b = Config.nanOut .add a b := by
  simp [fadd32, not_nan_of_inf ha, not_nan_of_inf hb, ha, hb, hs]

theorem fadd32_inf_self {a : Word} (ha : fpIsInf a = true) : fadd32 a a = a := by
  simp [fadd32, not_nan_of_inf ha, ha]

theorem fadd32_inf_finite {a b : Word} (ha : fpIsInf a = true) (hb : fpIsFinite b = true) :
    fadd32 a b = a ∧ fadd32 b a = a := by
  simp [fadd32, not_nan_of_inf ha, ha, not_special_of_finite hb]

theorem fmul32_inf_zero {a b : Word} (ha : fpIsInf a = true) (hb : fpIsZero b = true) :
    fmul32 a b = Config.nanOut .mul a b ∧ fmul32 b a = Config.nanOut .mul b a := by
  simp [fmul32, not_nan_of_inf ha, ha, hb, not_special_of_finite (finite_of_zero hb)]

theorem fmul32_inf_nonzero {a b : Word} (ha : fpIsInf a = true) (hn : fpIsNaN b = false) (hz : fpIsZero b = false) :
    fmul32 a b = signedInf (fpSign a != fpSign b) ∧ fmul32 b a = signedInf (fpSign a != fpSign b) := by
  rw [← fpPack_fpInfBits]
  constructor
  · simp [fmul32, not_nan_of_inf ha, ha, hn, hz]
  · rw [bne_comm]
    simp [fmul32, not_nan_of_inf ha, not_zero_of_inf ha, ha, hn, hz]

/-! ## Signs and zeros of finite results -/

theorem fpVal_add_eq_zero_iff (a b : Word) : fpVal a + fpVal b = 0 ↔ fpUnits a + fpUnits b = 0 := by
  rw [fpVal_add, div_eq_zero_iff, or_iff_left (by positivity), Int.cast_eq_zero]

theorem fpVal_add_neg_iff (a b : Word) : fpVal a + fpVal b < 0 ↔ fpUnits a + fpUnits b < 0 := by
  rw [fpVal_add, div_lt_iff₀ (by positivity), zero_mul, Int.cast_lt_zero]

theorem fadd32_of_sum_zero {a b : Word} (ha : fpIsFinite a = true) (hb : fpIsFinite b = true)
    (h : fpVal a + fpVal b = 0) : fadd32 a b = signedZero (fpSign a && fpSign b) := by
  rw [fadd32_of_finite ha hb, if_pos ((fpVal_add_eq_zero_iff a b).1 h), fpPack_zero]

theorem fpSign_fadd32 {a b : Word} (ha : fpIsFinite a = true) (hb : fpIsFinite b = true)
    (h : fpVal a + fpVal b ≠ 0) : fpSign (fadd32 a b) = decide (fpVal a + fpVal b < 0) := by
  rw [fadd32_of_finite ha hb, if_neg ((fpVal_add_eq_zero_iff a b).not.1 h), fpSign_fpPack (roundMag_le _ _)]
  simp only [fpVal_add_neg_iff]

theorem fpSign_fmul32 {a b : Word} (ha : fpIsFinite a = true) (hb : fpIsFinite b = true) :
    fpSign (fmul32 a b) = (fpSign a != fpSign b) := by
  rw [fmul32_of_finite ha hb, fpSign_fpPack (roundMag_le _ _)]

theorem fmul32_zero {a b : Word} (ha : fpIsFinite a = true) (hb : fpIsZero b = true) :
    fmul32 a b = signedZero (fpSign a != fpSign b) ∧ fmul32 b a = signedZero (fpSign a != fpSign b) := by
  have hround : roundMag 0 149 = 0 := by decide
  rw [fmul32_of_finite ha (finite_of_zero hb), fmul32_of_finite (finite_of_zero hb) ha, fpMag_of_zero hb, mul_zero,
    zero_mul, hround, fpPack_zero, fpPack_zero, bne_comm (a := fpSign b)]
  exact ⟨rfl, rfl⟩

/-! ## A word times 1.0 -/

/-- A 24-bit significand, full unless it is subnormal, is rounded at its own lowest bit. -/
theorem roundingShift_significand {s e : Nat} (k : Nat) (hs : s < 2 ^ 24) (hfull : e = 0 ∨ 2 ^ 23 ≤ s) :
    roundingShift (s * 2 ^ (e + k)) k = e + k := by
  have hlt : s * 2 ^ (e + k) < 2 ^ (24 + (e + k)) := by
    rw [pow_add 2 24]
    exact Nat.mul_lt_mul_of_pos_right hs (by positivity)
  have hle : e = 0 ∨ 2 ^ (23 + (e + k)) ≤ s * 2 ^ (e + k) :=
    hfull.imp_right fun hge => by rw [pow_add 2 23]; exact Nat.mul_le_mul_right _ hge
  have exponents : ∀ {i j : Nat}, 2 ^ i < 2 ^ j → i < j := (Nat.pow_lt_pow_iff_right (by omega)).1
  obtain ⟨hk, hm⟩ | ⟨hk, hl, hm⟩ := roundingShift_cases (s * 2 ^ (e + k)) k
  · rcases hle with rfl | hle
    · omega
    · have := exponents (hle.trans_lt hm)
      omega
  · have hupper := exponents (hl.trans_lt hlt)
    rcases hle with rfl | hle
    · omega
    · have := exponents (hle.trans_lt hm)
      omega

theorem roundShift_mul_pow (s sh : Nat) : roundShift (s * 2 ^ sh) sh = s := by
  have hpos : 0 < 2 ^ sh := by positivity
  simp [roundShift, hpos.ne]

/-- A magnitude that needs no rounding is kept. -/
theorem roundMag_significand {s e : Nat} (k : Nat) (hs : s < 2 ^ 24) (hfull : e = 0 ∨ 2 ^ 23 ≤ s) :
    roundMag (s * 2 ^ (e + k)) k = min (e * 2 ^ 23 + s) fpInfBits := by
  simp only [roundMag, roundingShift_significand k hs hfull, roundShift_mul_pow, Nat.add_sub_cancel]

/-- The magnitude of a finite word rounds to the word's own fields. -/
theorem roundMag_fpMag {a : Word} (h : fpIsFinite a = true) (k : Nat) :
    roundMag (fpMag a * 2 ^ k) k = fpExp a * 2 ^ 23 + fpFrac a := by
  obtain ⟨-, hexp, hfrac⟩ := toNat_fields a
  have hfin : fpExp a ≠ 255 := by simpa [fpIsFinite] using h
  have hbound : fpExp a * 2 ^ 23 + fpFrac a ≤ fpInfBits := by rw [fpInfBits_eq]; omega
  unfold fpMag
  split
  · next h0 =>
    have := roundMag_significand (e := 0) k (show fpFrac a < 2 ^ 24 by omega) (.inl rfl)
    rw [zero_add] at this
    rw [this]
    omega
  · next h0 =>
    rw [mul_assoc, ← pow_add, roundMag_significand k (by omega) (.inr (by omega))]
    omega

theorem fmul32_one {a : Word} (h : fpIsNaN a = false) : fmul32 a fpOne = a := by
  have hsign : (fpSign a != fpSign fpOne) = fpSign a := by
    rw [show fpSign fpOne = false by decide, Bool.bne_false]
  rcases inf_or_finite h with hinf | hfin
  · rw [(fmul32_inf_nonzero hinf (by decide) (by decide)).1, hsign, signedInf_fpSign hinf]
  · have hone : fpMag fpOne = 2 ^ 149 := by decide
    have hbits := roundMag_fpMag hfin 149
    rw [fmul32_of_finite hfin (by decide), hsign, hone, hbits, fpPack_fields (hbits ▸ roundMag_le _ _)]

/-! ## The sign flip -/

theorem fneg32_fneg32 (a : Word) : fneg32 (fneg32 a) = a := by
  rw [fneg32, fneg32, BitVec.xor_assoc, BitVec.xor_self, BitVec.xor_zero]

theorem getLsbD_fneg32 (a : Word) (i : Nat) : (fneg32 a).getLsbD i = (a.getLsbD i != decide (i = 31)) := by
  have hbit : (0x80000000 : Word).getLsbD i = decide (i = 31) := by
    rw [show (0x80000000 : Word) = BitVec.twoPow 32 31 by decide, BitVec.getLsbD_twoPow]
    simp [eq_comm]
  rw [fneg32, BitVec.getLsbD_xor, hbit, Bool.bne_eq_xor]

/-- Settles O32, clause by clause. -/
theorem specialOperandsFollowTheStandard : Obligations.SpecialOperandsFollowTheStandard := by
  refine ⟨fun a b h => ?nan, fun a b ha hb hs => ?oppositeInfs, fun a b ha hb => ?infPlus,
    fun a b ha hb => ?infTimesZero, fun a b ha hn hz => fmul32_inf_nonzero ha hn hz,
    fun a b ha hb => ⟨fadd32_of_sum_zero ha hb, fpSign_fadd32 ha hb, fpSign_fmul32 ha hb⟩,
    fun a b ha hb => fmul32_zero ha hb, fun a h => fmul32_one h,
    fun a => ⟨fneg32_fneg32 a, getLsbD_fneg32 a⟩⟩
  case nan =>
    rw [fadd32_of_nan h, fmul32_of_nan h]
    exact ⟨nanOut_quiet .add a b, nanOut_quiet .mul a b⟩
  case oppositeInfs =>
    rw [fadd32_opposite_infs ha hb hs]
    exact nanOut_quiet .add a b
  case infPlus =>
    rcases hb with hb | rfl
    · exact fadd32_inf_finite ha hb
    · exact ⟨fadd32_inf_self ha, fadd32_inf_self ha⟩
  case infTimesZero =>
    obtain ⟨hab, hba⟩ := fmul32_inf_zero ha hb
    rw [hab, hba]
    exact ⟨nanOut_quiet .mul a b, nanOut_quiet .mul b a⟩

end Sys2Proof.Proofs.Binary32

/-! SUPPORT and PROOFS of the family 10_state: what a command and a step can change, said once, and from it the
invariant, the frames of the commands, the host port and the computed registers (spec/10_state.md). -/

namespace Sys2Proof.Proofs.CoreState

open Sys2Proof.Machine Sys2Proof.Claims

/-! ## Everything a command can do -/

/-- `Effect s i t`: in state `s` command `i` can lead to `t`. Which code an error records is left open. -/
inductive Effect (s : State) : Instr → State → Prop where
  | nothing : Effect s .nop s
  | error (i : Instr) (c : ErrCode) : Effect s i (record c s)
  | configure (hphase : s.phase ≠ .hook) (hsize : validSize s.reqN s.reqB = true) :
      Effect s .configure (applyConfiguration s)
  | unconfigure (hphase : s.phase ≠ .hook) : Effect s .configure (unconfigure s)
  | setWindow (dir : Dir) (kind : BitVec 2) (k : WinKind) (hphase : s.phase ≠ .hook) (hconf : s.configured = true) :
      Effect s (.setWindow dir kind) (selectWindow dir k s)
  | enable (en : Bool) (hphase : s.phase ≠ .hook) : Effect s (.enable en) { s with enable := en }
  | passThrough {i : Instr} (hi : i = .analyze ∨ i = .update) (hphase : s.phase ≠ .hook)
      (hactive : s.active = false) : Effect s i (analyzeBody s)
  | openCycle (hphase : s.phase ≠ .hook) (hactive : s.active = true) : Effect s .analyze (openCycle s)
  | fullCycle (hphase : s.phase ≠ .hook) (hactive : s.active = true) :
      Effect s .update (synthesizeBody (openCycle s))
  | closeCycle (hphase : s.phase = .hook) : Effect s .synthesize (synthesizeBody s)
  | rebuild (hconf : s.configured = true) : Effect s .rebuild (rebuildSpec s)
  | xformFwd (hconf : s.configured = true) : Effect s .xformFwd (transformFwd s)
  | xformInv (hconf : s.configured = true) : Effect s .xformInv (transformInv s)

theorem execConfigure_effect {s t : State} (h : execConfigure s = .next t) : Effect s .configure t := by
  unfold execConfigure at h
  split at h
  · cases h; exact .error _ _
  · next hphase =>
    split at h
    · next hsize => cases h; exact .configure hphase hsize
    · cases h; exact .unconfigure hphase

theorem execSetWindow_effect {dir : Dir} {kind : BitVec 2} {s t : State} (h : execSetWindow dir kind s = .next t) :
    Effect s (.setWindow dir kind) t := by
  unfold execSetWindow at h
  split at h
  · cases h; exact .error _ _
  · split at h
    · cases h; exact .error _ _
    · next hphase =>
      split at h
      · next hconf => cases h; exact .setWindow dir kind _ hphase hconf
      · cases h; exact .error _ _

theorem execEnable_effect {en : Bool} {s t : State} (h : execEnable en s = .next t) : Effect s (.enable en) t := by
  unfold execEnable at h
  split at h
  · cases h; exact .error _ _
  · next hphase => cases h; exact .enable en hphase

theorem execAnalyze_effect {s t : State} (h : execAnalyze s = .next t) : Effect s .analyze t := by
  unfold execAnalyze at h
  split at h
  · cases h; exact .error _ _
  · next hphase =>
    cases h
    cases hactive : s.active
    · exact .passThrough (.inl rfl) hphase hactive
    · rw [analyzeBody_of_active hactive]; exact .openCycle hphase hactive

theorem execSynthesize_effect {s t : State} (h : execSynthesize s = .next t) : Effect s .synthesize t := by
  unfold execSynthesize at h
  split at h
  · cases h; exact .error _ _
  · next hphase =>
    cases h
    refine .closeCycle ?_
    cases hp : s.phase
    · exact absurd hp hphase
    · rfl

@[simp] theorem openCycle_phase (s : State) : (openCycle s).phase = .hook := rfl

@[simp] theorem synthesizeBody_phase (s : State) : (synthesizeBody s).phase = .idle := rfl

theorem execUpdate_effect {s t : State} (h : execUpdate s = .next t) : Effect s .update t := by
  unfold execUpdate at h
  split at h
  · cases h; exact .error _ _
  · next hphase =>
    cases h
    unfold closeIfOpen
    cases hactive : s.active
    · have hp : (analyzeBody s).phase = s.phase := by rw [analyzeBody_of_not_active hactive]
      rw [if_neg (by rwa [hp])]
      exact .passThrough (.inr rfl) hphase hactive
    · rw [analyzeBody_of_active hactive, if_pos (openCycle_phase s)]
      exact .fullCycle hphase hactive

/-- A unit command either has its effect on a configured core or reports an error (R68, R69, R77). -/
theorem unit_effect {i : Instr} {u s t : State} (hu : s.configured = true → Effect s i u)
    (h : (if s.configured then .next u else raiseError .notConfigured s) = .next t) : Effect s i t := by
  split at h
  · next hconf => cases h; exact hu hconf
  · cases h; exact .error _ _

/-- A command's next state is one of its effects. -/
theorem exec_effect {i : Instr} {s t : State} (h : exec i s = .next t) : Effect s i t := by
  cases i with
  | nop => cases h; exact .nothing
  | configure => exact execConfigure_effect h
  | setWindow dir kind => exact execSetWindow_effect h
  | enable en => exact execEnable_effect h
  | analyze => exact execAnalyze_effect h
  | rebuild => exact unit_effect .rebuild h
  | synthesize => exact execSynthesize_effect h
  | update => exact execUpdate_effect h
  | xformFwd => exact unit_effect .xformFwd h
  | xformInv => exact unit_effect .xformInv h

/-! ## Everything a step can do -/

/-- `Turn e s t`: when the event `e` takes place (none: the agenda is empty), state `s` can become `t`. -/
inductive Turn (s : State) : Option Event → State → Prop where
  | stay (e : Option Event) : Turn s e s
  | badWord (e : Option Event) (hbusy : s.busy = true) (hd : decode s.command = none) :
      Turn s e (record .badCommand (clearBusy s))
  | command (e : Option Event) (i : Instr) (t : State) (hbusy : s.busy = true) (hd : decode s.command = some i)
      (ht : Effect (clearBusy s) i t) : Turn s e t
  | answer (e : Option Event) (r : Response) : Turn s e (respond r s)
  | freeAnswer (e : Option Event) (r : Response) : Turn s e (respond r (drawFree s))
  | write (e : Option Event) (off : Nat) (v : Word) (hoff : off < 0x18000) (hreset : s.inReset = false) :
      Turn s e (respond .written (writeLocation (locate off) v s))
  | assertReset : Turn s (some (.resetInput true)) { clearBusy s with inReset := true }
  | releaseReset (hreset : s.inReset = true) : Turn s (some (.resetInput false)) (resetCore s)
  | outAlloc (ok : Bool) : Turn s (some (.outAlloc ok)) (driveOutAlloc ok s)

theorem coreTurn_turn {s t : State} (e : Option Event) (h : coreTurn s = .next t) : Turn s e t := by
  obtain ⟨-, rfl⟩ | ⟨hbusy, hd, rfl⟩ | ⟨hbusy, i, hd, hexec⟩ := coreTurn_cases h
  · exact .stay e
  · exact .badWord e hbusy hd
  · exact .command e i t hbusy hd (exec_effect hexec)

theorem hostAccess_turn {a : Access} {s t : State} (e : Option Event) (h : hostAccess a s = .next t) :
    Turn s e t := by
  obtain ⟨r, rfl⟩ | ⟨r, rfl⟩ | ⟨off, v, -, hoff, -, hreset, -, rfl⟩ := hostAccess_cases h
  · exact .answer e r
  · exact .freeAnswer e r
  · exact .write e off v hoff hreset

theorem driveReset_turn (asserted : Bool) (s : State) :
    Turn s (some (.resetInput asserted)) (driveReset asserted s) := by
  cases asserted
  · cases hreset : s.inReset
    · have hstay : driveReset false s = s := by simp [driveReset, hreset]
      rw [hstay]
      exact .stay _
    · have hrelease : driveReset false s = resetCore s := by simp [driveReset, hreset]
      rw [hrelease]
      exact .releaseReset hreset
  · exact .assertReset

/-- A step consumes the first event of the agenda and is a turn of that event. -/
theorem step_turn {s t : State} (h : step s = .next t) :
    Turn { s with agenda := s.agenda.tail } s.agenda.head? t := by
  cases ha : s.agenda with
  | nil =>
    rw [step_of_core (.inl ha), ha] at h
    exact coreTurn_turn _ h
  | cons e rest =>
    rw [step_of_cons ha] at h
    cases e with
    | host a => exact hostAccess_turn _ h
    | core => exact coreTurn_turn _ h
    | resetInput asserted => cases h; exact driveReset_turn asserted _
    | outAlloc ok => cases h; exact .outAlloc ok

/-! ## What no command writes, and the settings -/

theorem sameSettings_refl (s : State) : SameSettings s s := ⟨rfl, rfl, rfl, rfl, rfl, rfl, rfl⟩

theorem openCycle_sameSettings (s : State) : SameSettings s (openCycle s) := by
  simp [SameSettings, openCycle]

theorem synthesizeBody_sameSettings (s : State) : SameSettings s (synthesizeBody s) := by
  simp [SameSettings, synthesizeBody]

theorem sameSettings_trans {s t u : State} (h : SameSettings s t) (h' : SameSettings t u) : SameSettings s u := by
  obtain ⟨hconf, hen, hN, hB, hFs, hfwd, hinv⟩ := h
  rw [SameSettings, ← hconf, ← hen, ← hN, ← hB, ← hFs, ← hfwd, ← hinv]
  exact h'

/-- Every effect but those of CONFIGURE, SET_WINDOW and ENABLE keeps the settings. -/
theorem effect_sameSettings {i : Instr} {s t : State} (h : Effect s i t) (hconfigure : i ≠ .configure)
    (henable : ∀ en, i ≠ .enable en) (hwindow : ∀ d k, i ≠ .setWindow d k) : SameSettings s t := by
  cases h with
  | configure | unconfigure => exact absurd rfl hconfigure
  | setWindow dir kind => exact absurd rfl (hwindow dir kind)
  | enable en => exact absurd rfl (henable en)
  | nothing | error | rebuild | xformFwd | xformInv => exact sameSettings_refl s
  | passThrough hi hphase hactive => rw [analyzeBody_of_not_active hactive]; exact sameSettings_refl s
  | openCycle => exact openCycle_sameSettings s
  | fullCycle => exact sameSettings_trans (openCycle_sameSettings s) (synthesizeBody_sameSettings _)
  | closeCycle => exact synthesizeBody_sameSettings s

theorem sameInputs_refl (s : State) : SameInputs s s := ⟨rfl, rfl, rfl, rfl, rfl, rfl, rfl, rfl, rfl, rfl, rfl⟩

/-- No effect of a command touches the request registers, IN, the inputs or the bookkeeping. -/
theorem effect_sameInputs {i : Instr} {s t : State} (h : Effect s i t) : SameInputs s t := by
  cases h with
  | nothing | error | configure | unconfigure | enable | rebuild | xformFwd | xformInv => exact sameInputs_refl s
  | setWindow dir => cases dir <;> exact sameInputs_refl s
  | passThrough hi hphase hactive => rw [analyzeBody_of_not_active hactive]; exact sameInputs_refl s
  | openCycle => simp [SameInputs, openCycle]
  | fullCycle => simp [SameInputs, openCycle, synthesizeBody]
  | closeCycle => simp [SameInputs, synthesizeBody]

/-- Settles O16: each effect is looked at for what it may write. -/
theorem settingsChangeOnlyByTheirCommands : Obligations.SettingsChangeOnlyByTheirCommands := by
  intro i s t h
  have heffect := exec_effect h
  refine ⟨effect_sameInputs heffect, effect_sameSettings heffect, ?configure, fun en => ?enable, fun d k => ?window⟩
  case configure =>
    rintro rfl
    cases heffect with
    | error | configure | unconfigure => rfl
    | passThrough hi => simp at hi
  case enable =>
    rintro rfl
    cases heffect with
    | error | enable => rfl
    | passThrough hi => simp at hi
  case window =>
    rintro rfl
    cases heffect with
    | error => rfl
    | setWindow => cases d <;> rfl
    | passThrough hi => simp at hi

/-! ## The phase -/

theorem phase_idle_of_ne_hook {s : State} (h : s.phase ≠ .hook) : s.phase = .idle := by
  cases hp : s.phase
  · rfl
  · exact absurd hp h

@[simp] theorem selectWindow_phase (dir : Dir) (k : WinKind) (s : State) : (selectWindow dir k s).phase = s.phase := by
  cases dir <;> rfl

/-- UPDATE opens and closes the hook window within one command, so that only the two halves alone change the phase. -/
theorem effect_phase {i : Instr} {s t : State} (h : Effect s i t) (hne : t.phase ≠ s.phase) :
    (i = .analyze ∧ s.active = true ∧ t.phase = .hook) ∨ (i = .synthesize ∧ t.phase = .idle) := by
  cases h with
  | openCycle _ hactive => exact .inl ⟨rfl, hactive, rfl⟩
  | closeCycle => exact .inr ⟨rfl, rfl⟩
  | fullCycle hphase => exact absurd (phase_idle_of_ne_hook hphase).symm hne
  | passThrough _ _ hactive => rw [analyzeBody_of_not_active hactive] at hne; exact absurd rfl hne
  | setWindow => exact absurd (selectWindow_phase _ _ s) hne
  | nothing | error | configure | unconfigure | enable | rebuild | xformFwd | xformInv => exact absurd rfl hne

theorem exec_analyze_of_active {s : State} (hphase : s.phase = .idle) (hactive : s.active = true) :
    exec .analyze s = .next (openCycle s) := by
  simp [exec, execAnalyze, hphase, analyzeBody_of_active hactive]

theorem exec_synthesize_of_hook {s : State} (hphase : s.phase = .hook) :
    exec .synthesize s = .next (synthesizeBody s) := by
  simp [exec, execSynthesize, hphase]

/-! ## The computed registers -/

/-- The bits of STATUS from bit 1 on: the flags that a write of REG.CMD leaves alone (R22). -/
def statusFlags (s : State) : BitVec 31 :=
  ((((((0#25).concat s.outValid).concat s.drop).concat s.active).concat (decide (s.phase = .hook))).concat
    s.enable).concat s.configured

theorem statusWord_eq_concat (s : State) : s.statusWord = (statusFlags s).concat s.busy := rfl

/-- Each bit of STATUS (R22). -/
theorem statusWord_bits (s : State) :
    s.statusWord.getLsbD 0 = s.busy ∧ s.statusWord.getLsbD 1 = s.configured ∧ s.statusWord.getLsbD 2 = s.enable ∧
    s.statusWord.getLsbD 3 = decide (s.phase = .hook) ∧ s.statusWord.getLsbD 4 = s.active ∧
    s.statusWord.getLsbD 5 = s.drop ∧ s.statusWord.getLsbD 6 = s.outValid := by
  simp only [statusWord_eq_concat, statusFlags, BitVec.getLsbD_concat]
  exact ⟨rfl, rfl, rfl, rfl, rfl, rfl, rfl⟩

theorem statusWord_reserved (s : State) : s.statusWord.extractLsb' 7 25 = 0 := by
  apply BitVec.eq_of_getLsbD_eq
  intro i hi
  have hbit : s.statusWord.getLsbD (7 + i) = (0#25).getLsbD i := by
    simp [statusWord_eq_concat, statusFlags, BitVec.getLsbD_concat]
  rw [BitVec.getLsbD_extractLsb', hbit]
  simp

/-- The two fields of WIN, and its reserved bits (R26). -/
theorem winWord_fields (s : State) :
    s.winWord.extractLsb' 0 2 = fieldOfKind s.fwdKind ∧ s.winWord.extractLsb' 2 2 = fieldOfKind s.invKind ∧
    s.winWord.extractLsb' 4 28 = 0 := by
  unfold State.winWord
  cases s.fwdKind <;> cases s.invKind <;> decide

/-- Setting BUSY on an idle core sets bit 0 of STATUS (R22). -/
theorem concat_true_eq_or_one (x : BitVec 31) : (x.concat true : Word) = x.concat false ||| 1 := by
  have hone : (1 : Word) = (0#31).concat true := rfl
  rw [hone, BitVec.concat_or_concat]
  simp

/-- Settles O41: the bits of the concatenations. -/
theorem statusRegistersHaveTheirFields : Obligations.StatusRegistersHaveTheirFields := by
  intro s
  obtain ⟨hbusy, hconf, hen, hhook, hactive, hdrop, hvalid⟩ := statusWord_bits s
  have herr : ∀ c, s.err = c → s.errWord = 0#24 ++ c.toByte := fun c h => by rw [State.errWord, h]
  exact ⟨hbusy, hconf, hen, hhook, hactive, hdrop, hvalid, statusWord_reserved s,
    herr _, herr _, herr _, herr _, herr _, herr _, winWord_fields s⟩

/-- Settles O15: what each effect does to the phase, and the two commands that change it. -/
theorem phaseChangesOnlyByTheCycle : Obligations.PhaseChangesOnlyByTheCycle := by
  refine ⟨fun i s t h hne => effect_phase (exec_effect h) hne, fun s hphase hactive => ?opens, fun s hphase => ?closes,
    rfl, fun s => ?status⟩
  case opens => exact ⟨_, exec_analyze_of_active hphase hactive, rfl⟩
  case closes => exact ⟨_, exec_synthesize_of_hook hphase, rfl⟩
  case status =>
    obtain ⟨-, -, -, hhook, -⟩ := statusWord_bits s
    exact hhook

/-! ## Bytes beyond the active length -/

/-- From `s` to `t` no byte changes beyond the words of a transform of length `N` (R29, R31, R32). -/
def KeepsBeyond (N : Nat) (s t : State) : Prop :=
  SameBytesOutside s.specBuf t.specBuf 0 (8 * N) ∧ SameBytesOutside s.histBuf t.histBuf 0 (4 * N) ∧
  SameBytesOutside s.accBuf t.accBuf 0 (4 * N)

theorem keepsBeyond_of_eq {N : Nat} {s t : State} (hspec : t.specBuf = s.specBuf) (hhist : t.histBuf = s.histBuf)
    (hacc : t.accBuf = s.accBuf) : KeepsBeyond N s t := by
  rw [KeepsBeyond, hspec, hhist, hacc]
  exact ⟨fun _ _ => rfl, fun _ _ => rfl, fun _ _ => rfl⟩

theorem keepsBeyond_trans {N : Nat} {s t u : State} (h : KeepsBeyond N s t) (h' : KeepsBeyond N t u) :
    KeepsBeyond N s u := by
  obtain ⟨hspec, hhist, hacc⟩ := h
  obtain ⟨hspec', hhist', hacc'⟩ := h'
  exact ⟨fun a ha => (hspec' a ha).trans (hspec a ha), fun a ha => (hhist' a ha).trans (hhist a ha),
    fun a ha => (hacc' a ha).trans (hacc a ha)⟩

/-- Consecutive words below byte `hi` change no byte from `hi` on. -/
theorem sameBytesOutside_writeWords (m : Memory) {i hi : Nat} {ws : List Word}
    (h : ws = [] ∨ 4 * (i + ws.length) ≤ hi) : SameBytesOutside m (m.writeWords i ws) 0 hi := by
  rcases h with rfl | h
  · exact fun _ _ => rfl
  · exact fun a ha => Memory.getByte_writeWords_of_not_mem m i ws (by omega)

theorem writeSpec_keepsBeyond {N i : Nat} {ws : List Word} (s : State) (h : ws = [] ∨ i + ws.length ≤ 2 * N) :
    KeepsBeyond N s (writeSpec i ws s) :=
  ⟨sameBytesOutside_writeWords _ (h.imp_right fun h => by omega), fun _ _ => rfl, fun _ _ => rfl⟩

theorem writeHist_keepsBeyond {N i : Nat} {ws : List Word} (s : State) (h : i + ws.length ≤ N) :
    KeepsBeyond N s (writeHist i ws s) :=
  ⟨fun _ _ => rfl, sameBytesOutside_writeWords _ (.inr (by omega)), fun _ _ => rfl⟩

theorem writeAcc_keepsBeyond {N i : Nat} {ws : List Word} (s : State) (h : i + ws.length ≤ N) :
    KeepsBeyond N s (writeAcc i ws s) :=
  ⟨fun _ _ => rfl, fun _ _ => rfl, sameBytesOutside_writeWords _ (.inr (by omega))⟩

theorem transformFwd_keepsBeyond (s : State) : KeepsBeyond s.transformLen s (transformFwd s) :=
  writeSpec_keepsBeyond s (.inr (by simp [Config.fft.length_run]))

theorem transformInv_keepsBeyond (s : State) : KeepsBeyond s.transformLen s (transformInv s) :=
  writeSpec_keepsBeyond s (.inr (by simp))

/-- The last conjugate bin is N-1. -/
theorem conjugateWords_range (s : State) :
    s.conjugateWords = [] ∨ 2 * (s.transformLen / 2 + 1) + s.conjugateWords.length ≤ 2 * s.transformLen := by
  rw [← List.length_eq_zero_iff, length_conjugateWords]
  omega

theorem rebuildSpec_keepsBeyond (s : State) : KeepsBeyond s.transformLen s (rebuildSpec s) :=
  writeSpec_keepsBeyond s (conjugateWords_range s)

theorem frameHist_keepsBeyond (s : State) : KeepsBeyond s.transformLen s (frameHist s) :=
  writeSpec_keepsBeyond s (.inr (by simp))

theorem overlapAdd_keepsBeyond (s : State) : KeepsBeyond s.transformLen s (overlapAdd s) :=
  writeAcc_keepsBeyond s (by simp)

theorem shiftHist_keepsBeyond {s : State} (h : s.blockLen ≤ s.transformLen) :
    KeepsBeyond s.transformLen s (shiftHist s) :=
  writeHist_keepsBeyond s (by simp [h])

theorem rotateAcc_keepsBeyond {s : State} (h : s.blockLen ≤ s.transformLen) :
    KeepsBeyond s.transformLen s (rotateAcc s) :=
  writeAcc_keepsBeyond s (by simp [h])

/-- The sizes of every configuration that CONFIGURE can leave (R25). -/
theorem sizes_of_configOk {s : State} (h : s.configOk) : s.blockLen ≤ s.transformLen ∧ s.transformLen ≤ maxLen := by
  cases hconf : s.configured
  · obtain ⟨hN, hB⟩ : s.cfgN = 0 ∧ s.cfgB = 0 := by simpa [State.configOk, hconf] using h
    simp [State.blockLen, State.transformLen, hN, hB]
  · obtain ⟨-, hmax, -, -, hle, -⟩ := sizes_of_validSize (configOk_validSize h hconf)
    exact ⟨hle, hmax⟩

theorem openCycle_keepsBeyond {s : State} (h : s.blockLen ≤ s.transformLen) :
    KeepsBeyond s.transformLen s (openCycle s) := by
  have hring := shiftHist_keepsBeyond h
  have hframe := frameHist_keepsBeyond (shiftHist s)
  have hfft := transformFwd_keepsBeyond (frameHist (shiftHist s))
  simp only [shiftHist_transformLen, frameHist_transformLen] at hframe hfft
  exact keepsBeyond_trans hring (keepsBeyond_trans hframe hfft)

theorem synthesizeBody_keepsBeyond {s : State} (h : s.blockLen ≤ s.transformLen) :
    KeepsBeyond s.transformLen s (synthesizeBody s) := by
  have hrebuild := rebuildSpec_keepsBeyond s
  have hfft := transformInv_keepsBeyond (rebuildSpec s)
  have hsum := overlapAdd_keepsBeyond (transformInv (rebuildSpec s))
  have hemit : KeepsBeyond s.transformLen (overlapAdd (transformInv (rebuildSpec s)))
      (emit (overlapAdd (transformInv (rebuildSpec s)))) :=
    keepsBeyond_of_eq (emit_specBuf _) (emit_histBuf _) (emit_accBuf _)
  have hrotate := rotateAcc_keepsBeyond (s := emit (overlapAdd (transformInv (rebuildSpec s)))) (by simpa using h)
  simp only [rebuildSpec_transformLen, transformInv_transformLen, overlapAdd_transformLen,
    emit_transformLen] at hfft hsum hrotate
  exact keepsBeyond_trans hrebuild
    (keepsBeyond_trans hfft (keepsBeyond_trans hsum (keepsBeyond_trans hemit hrotate)))

theorem sameSettings_transformLen {s t : State} (h : SameSettings s t) : t.transformLen = s.transformLen := by
  obtain ⟨-, -, hN, -⟩ := h
  rw [State.transformLen, hN, State.transformLen]

theorem sameSettings_blockLen {s t : State} (h : SameSettings s t) : t.blockLen = s.blockLen := by
  obtain ⟨-, -, -, hB, -⟩ := h
  rw [State.blockLen, hB, State.blockLen]

theorem effect_keepsBeyond {i : Instr} {s t : State} (h : Effect s i t) (hconfig : s.configOk)
    (hi : i ≠ .configure) : KeepsBeyond s.transformLen s t := by
  have hle := (sizes_of_configOk hconfig).1
  cases h with
  | configure | unconfigure => exact absurd rfl hi
  | nothing | error | enable => exact keepsBeyond_of_eq rfl rfl rfl
  | setWindow dir => cases dir <;> exact keepsBeyond_of_eq rfl rfl rfl
  | passThrough _ _ hactive =>
    rw [analyzeBody_of_not_active hactive]
    exact keepsBeyond_of_eq rfl rfl rfl
  | openCycle => exact openCycle_keepsBeyond hle
  | fullCycle =>
    have hsame := openCycle_sameSettings s
    have hclose := synthesizeBody_keepsBeyond (s := openCycle s)
      (by rwa [sameSettings_blockLen hsame, sameSettings_transformLen hsame])
    rw [sameSettings_transformLen hsame] at hclose
    exact keepsBeyond_trans (openCycle_keepsBeyond hle) hclose
  | closeCycle => exact synthesizeBody_keepsBeyond hle
  | rebuild => exact rebuildSpec_keepsBeyond s
  | xformFwd => exact transformFwd_keepsBeyond s
  | xformInv => exact transformInv_keepsBeyond s

/-- Settles O18: no effect but CONFIGURE's writes beyond the active length. -/
theorem wordsBeyondTheLengthAreKept : Obligations.WordsBeyondTheLengthAreKept :=
  fun _ _ _ hconfig hi h => effect_keepsBeyond (exec_effect h) hconfig hi

/-! ## DROP_COUNT -/

/-- What a SYNTHESIZE that changes DROP_COUNT leaves: a dropped emission (R82, R109). -/
theorem synthesizeBody_dropped {s : State} (h : (synthesizeBody s).dropCount ≠ s.dropCount) :
    s.outAllocOk = false ∧ (synthesizeBody s).drop = true ∧ (synthesizeBody s).err = .allocationFailure ∧
      (synthesizeBody s).dropCount = s.dropCount + 1 := by
  rw [synthesizeBody_dropCount] at h ⊢
  rw [synthesizeBody_err]
  cases hok : s.outAllocOk
  · simp [synthesizeBody, hok]
  · exact absurd (by rw [hok, if_pos rfl]) h

theorem effect_dropCount {i : Instr} {s t : State} (h : Effect s i t) (hne : t.dropCount ≠ s.dropCount) :
    s.outAllocOk = false ∧ t.drop = true ∧ t.err = .allocationFailure ∧ t.dropCount = s.dropCount + 1 ∧
      (i = .synthesize ∨ i = .update) := by
  cases h with
  | nothing | error | configure | unconfigure | enable | rebuild | xformFwd | xformInv => exact absurd rfl hne
  | setWindow dir => cases dir <;> exact absurd rfl hne
  | passThrough _ _ hactive => rw [analyzeBody_of_not_active hactive] at hne; exact absurd rfl hne
  | openCycle => rw [openCycle_eq] at hne; exact absurd rfl hne
  | fullCycle =>
    have hcount : (openCycle s).dropCount = s.dropCount := by rw [openCycle_eq]
    have hok : (openCycle s).outAllocOk = s.outAllocOk := by rw [openCycle_eq]
    rw [← hcount] at hne ⊢
    obtain ⟨halloc, hdrop, herr, hnext⟩ := synthesizeBody_dropped hne
    exact ⟨hok ▸ halloc, hdrop, herr, hnext, .inr rfl⟩
  | closeCycle =>
    obtain ⟨halloc, hdrop, herr, hnext⟩ := synthesizeBody_dropped hne
    exact ⟨halloc, hdrop, herr, hnext, .inl rfl⟩

/-- No write of the host reaches DROP_COUNT (R40). -/
theorem writeLocation_dropCount (l : Location) (v : Word) (s : State) :
    (writeLocation l v s).dropCount = s.dropCount := by
  cases l with
  | register r => cases r <;> rfl
  | inWord | outWord | specWord | reserved => rfl

/-- Settles O20: of all turns only a dropped emission and the release of reset change the count. -/
theorem dropCountChangesOnlyByDropsAndReset : Obligations.DropCountChangesOnlyByDropsAndReset := by
  intro s t h hne
  generalize he : s.agenda.head? = e
  have hturn := he ▸ step_turn h
  cases hturn with
  | stay | badWord | answer | freeAnswer | assertReset | outAlloc => exact absurd rfl hne
  | write => exact absurd (writeLocation_dropCount _ _ _) hne
  | command _ i _ hbusy hd heffect =>
    obtain ⟨halloc, hdrop, herr, hnext, hi⟩ := effect_dropCount heffect hne
    exact .inl ⟨hbusy, halloc, hdrop, herr, hnext, hi.imp (by rintro rfl; exact hd) (by rintro rfl; exact hd)⟩
  | releaseReset hreset => exact .inr ⟨hreset, rfl, rfl⟩

/-! ## The host port (R36 to R42) -/

theorem readOffset_of_idle {s : State} {off : Nat} (hreset : s.inReset = false) (hbusy : s.busy = false)
    (halign : off % 4 = 0) : readOffset off 4 s = .next (respond (.data (readLocation (locate off) s)) s) := by
  have hacc : accepted off 4 = true := accepted_eq_true.2 ⟨rfl, halign⟩
  simp [readOffset, hreset, hbusy, hacc]

theorem writeOffset_of_idle {s : State} {off : Nat} (v : Word) (hreset : s.inReset = false) (hbusy : s.busy = false)
    (halign : off % 4 = 0) : writeOffset off 4 v s = .next (respond .written (writeLocation (locate off) v s)) := by
  have hacc : accepted off 4 = true := accepted_eq_true.2 ⟨rfl, halign⟩
  simp [writeOffset, hreset, hbusy, hacc]

/-- What a location reads as does not depend on what is to happen next. -/
theorem readLocation_agenda (l : Location) (s : State) (rest : List Event) :
    readLocation l { s with agenda := rest } = readLocation l s := by
  cases l with
  | register r => cases r <;> rfl
  | inWord | outWord | specWord | reserved => rfl

/-- A read of the window on an idle core answers the location's value (R41). -/
theorem step_read {s : State} {off : Nat} {rest : List Event}
    (h : s.agenda = .host (.read (Config.base + off) 4) :: rest) (hreset : s.inReset = false) (hbusy : s.busy = false)
    (halign : off % 4 = 0) (hoff : off < 0x18000) :
    step s = .next { s with agenda := rest, response := .data (readLocation (locate off) s) } := by
  rw [step_of_cons h, takeEvent, hostAccess, windowOffset_base hoff, ← readLocation_agenda _ s rest]
  exact readOffset_of_idle hreset hbusy halign

/-- A write of the window on an idle core is a write of the location (R42). -/
theorem step_write {s : State} {off : Nat} {v : Word} {rest : List Event}
    (h : s.agenda = .host (.write (Config.base + off) 4 v) :: rest) (hreset : s.inReset = false)
    (hbusy : s.busy = false) (halign : off % 4 = 0) (hoff : off < 0x18000) :
    step s = .next (respond .written (writeLocation (locate off) v { s with agenda := rest })) := by
  rw [step_of_cons h, takeEvent, hostAccess, windowOffset_base hoff]
  exact writeOffset_of_idle v hreset hbusy halign

/-- STATUS, the registers from CFG_N on, OUT and the reserved offsets ignore a write (R40). -/
theorem writeLocation_readOnly {off : Nat} (halign : off % 4 = 0)
    (h : off = 0x004 ∨ (0x018 ≤ off ∧ off < 0x4000) ∨ (0x8000 ≤ off ∧ off < 0x10000)) (v : Word) (s : State) :
    writeLocation (locate off) v s = s := by
  rcases h with rfl | ⟨hlo, hhi⟩ | ⟨hlo, hhi⟩
  · rfl
  · rcases Nat.lt_or_ge off 0x2C with hreg | hres
    · interval_cases off <;> rfl
    · rw [locate_reserved_low hres hhi]; rfl
  · rcases Nat.lt_or_ge off 0xC000 with hout | hres
    · obtain ⟨i, rfl⟩ : ∃ i, off = 0x8000 + 4 * i := ⟨(off - 0x8000) / 4, by omega⟩
      rw [locate_outWord (by omega)]; rfl
    · rw [locate_reserved_high hres hhi]; rfl

theorem sameBytesOutside_setWord (m : Memory) (i : Nat) (v : Word) :
    SameBytesOutside m (m.setWord i v) (4 * i) (4 * i + 4) := fun a ha => by
  rw [Memory.getByte_setWord, if_neg (by omega)]

/-- Settles O42: a read answers the value of the location that the map names. -/
theorem hostReadFollowsTheMap : Obligations.HostReadFollowsTheMap := by
  intro s off rest hagenda hreset hbusy halign hoff
  refine ⟨_, step_read hagenda hreset hbusy halign hoff, ?_, ?_, ?_, ?_, ?_, ?_, ?_, ?_, ?_, ?_, ?_,
    fun hlo hhi => ?lowReserved, fun i hi hat => ?inWords, fun i hi hat => ?outWords,
    fun hlo hhi => ?highReserved, fun i hi hat => ?specWords⟩
  case lowReserved => rw [locate_reserved_low hlo hhi]; rfl
  case inWords => rw [hat, locate_inWord hi]; rfl
  case outWords => rw [hat, locate_outWord hi]; rfl
  case highReserved => rw [locate_reserved_high hlo hhi]; rfl
  case specWords => rw [hat, locate_specWord]; rfl
  all_goals rintro rfl; rfl

/-- Settles O43: a write does what the location that the map names does with it. -/
theorem hostWriteFollowsTheMap : Obligations.HostWriteFollowsTheMap := by
  intro s off v rest hagenda hreset hbusy halign hoff
  refine ⟨_, step_write hagenda hreset hbusy halign hoff, ?_, ?_, ?_, ?_, ?_, fun hat => ?readOnly,
    fun i hi hat => ?inWords, fun i hi hat => ?specWords⟩
  case readOnly => rw [writeLocation_readOnly halign hat]; rfl
  case inWords =>
    rw [hat, locate_inWord hi]
    exact ⟨rfl, by simp [writeLocation, State.inWord], sameBytesOutside_setWord s.inBuf i v⟩
  case specWords =>
    rw [hat, locate_specWord]
    exact ⟨rfl, by simp [writeLocation, State.specWord], sameBytesOutside_setWord s.specBuf i v⟩
  all_goals rintro rfl; rfl

/-! ## A command from the host's write to its end -/

theorem step_core {s : State} {i : Instr} (hturn : s.agenda = [] ∨ s.agenda.head? = some .core)
    (hbusy : s.busy = true) (hd : decode s.command = some i) :
    step s = exec i { s with busy := false, command := 0, agenda := s.agenda.tail } := by
  rw [step_of_core hturn]
  exact coreTurn_of_some hbusy hd

/-- Settles O4: both clauses are the core's turn with a word in progress. -/
theorem stepRunsTheDecodedCommand : Obligations.StepRunsTheDecodedCommand := by
  refine ⟨fun s i hbusy hturn hd _ => step_core hturn hbusy hd, fun s w i hd => ?_⟩
  exact step_core (s := s.withFetchWord 32 w) (.inr rfl) rfl hd

/-- Settles O6: the write of REG.CMD by the map, then the core's turn. -/
theorem hostCommandRunsToCompletion : Obligations.HostCommandRunsToCompletion := by
  intro s w i rest hagenda hbusy hreset hd
  refine ⟨_, step_write (off := 0) hagenda hreset hbusy rfl (by decide), rfl, ?status, ?command⟩
  case status =>
    have hidle : s.statusWord = (statusFlags s).concat false := by rw [statusWord_eq_concat, hbusy]
    rw [hidle]
    exact concat_true_eq_or_one (statusFlags s)
  case command =>
    exact step_core (s := { s with busy := true, command := w, agenda := .core :: rest, response := .written })
      (.inr rfl) rfl hd

/-! ## The invariant -/

/-- Settles O49: the values that reset leaves, and five empty buffers. -/
theorem resetMeetsTheInvariant : Obligations.ResetMeetsTheInvariant := by
  have hempty : ∀ bytes, BufferOk [] bytes := BufferOk.zeroed
  refine ⟨⟨rfl, rfl⟩, fun h => ?phase, fun _ => rfl, hempty _, hempty _, hempty _, hempty _, hempty _⟩
  case phase => cases h

section Buffers

variable {s : State}

theorem writeSpec_buffersOk {i : Nat} {ws : List Word} (h : s.buffersOk) (hfit : 4 * (i + ws.length) ≤ specBytes) :
    (writeSpec i ws s).buffersOk := by
  obtain ⟨hspec, hrest⟩ := h
  exact ⟨hspec.writeWords hfit, hrest⟩

theorem writeHist_buffersOk {i : Nat} {ws : List Word} (h : s.buffersOk) (hfit : 4 * (i + ws.length) ≤ blockBytes) :
    (writeHist i ws s).buffersOk := by
  obtain ⟨hspec, hin, hout, hhist, hacc⟩ := h
  exact ⟨hspec, hin, hout, hhist.writeWords hfit, hacc⟩

theorem writeAcc_buffersOk {i : Nat} {ws : List Word} (h : s.buffersOk) (hfit : 4 * (i + ws.length) ≤ blockBytes) :
    (writeAcc i ws s).buffersOk := by
  obtain ⟨hspec, hin, hout, hhist, hacc⟩ := h
  exact ⟨hspec, hin, hout, hhist, hacc.writeWords hfit⟩

theorem transformFwd_buffersOk (h : s.buffersOk) (hN : s.transformLen ≤ maxLen) : (transformFwd s).buffersOk :=
  writeSpec_buffersOk h (by simp only [Config.fft.length_run, specBytes]; omega)

theorem transformInv_buffersOk (h : s.buffersOk) (hN : s.transformLen ≤ maxLen) : (transformInv s).buffersOk :=
  writeSpec_buffersOk h (by simp only [length_applyWindow, length_inverseSpec, specBytes]; omega)

theorem rebuildSpec_buffersOk (h : s.buffersOk) (hN : s.transformLen ≤ maxLen) : (rebuildSpec s).buffersOk :=
  writeSpec_buffersOk h (by simp only [length_conjugateWords, specBytes, maxLen] at *; omega)

theorem frameHist_buffersOk (h : s.buffersOk) (hN : s.transformLen ≤ maxLen) : (frameHist s).buffersOk :=
  writeSpec_buffersOk h (by simp only [List.length_map, List.length_range, specBytes]; omega)

theorem overlapAdd_buffersOk (h : s.buffersOk) (hN : s.transformLen ≤ maxLen) : (overlapAdd s).buffersOk :=
  writeAcc_buffersOk h (by simp only [List.length_map, List.length_range, blockBytes]; omega)

variable (hB : s.blockLen ≤ s.transformLen)

include hB

theorem shiftHist_buffersOk (h : s.buffersOk) (hN : s.transformLen ≤ maxLen) : (shiftHist s).buffersOk :=
  writeHist_buffersOk h (by simp only [List.length_append, Memory.length_readWords, blockBytes]; omega)

theorem rotateAcc_buffersOk (h : s.buffersOk) (hN : s.transformLen ≤ maxLen) : (rotateAcc s).buffersOk :=
  writeAcc_buffersOk h
    (by simp only [List.length_append, Memory.length_readWords, List.length_replicate, blockBytes]; omega)

/-- An emission writes OUT only when it delivers, and then one block (R82). -/
theorem emit_buffersOk (h : s.buffersOk) (hN : s.transformLen ≤ maxLen) : (emit s).buffersOk := by
  unfold emit
  split
  · obtain ⟨hspec, hin, hout, hhist, hacc⟩ := h
    exact ⟨hspec, hin, hout.writeWords (by simp only [Memory.length_readWords, blockBytes]; omega), hhist, hacc⟩
  · exact h

theorem openCycle_buffersOk (h : s.buffersOk) (hN : s.transformLen ≤ maxLen) : (openCycle s).buffersOk := by
  have hring := shiftHist_buffersOk hB h hN
  have hframe := frameHist_buffersOk hring (by simpa using hN)
  exact transformFwd_buffersOk hframe (by simpa using hN)

theorem synthesizeBody_buffersOk (h : s.buffersOk) (hN : s.transformLen ≤ maxLen) :
    (synthesizeBody s).buffersOk := by
  have hrebuild := rebuildSpec_buffersOk h hN
  have hfft := transformInv_buffersOk hrebuild (by simpa using hN)
  have hsum := overlapAdd_buffersOk hfft (by simpa using hN)
  have hemit := emit_buffersOk (by simpa using hB) hsum (by simpa using hN)
  exact rotateAcc_buffersOk (by simpa using hB) hemit (by simpa using hN)

end Buffers

theorem applyConfiguration_buffersOk {s : State} (h : s.buffersOk) : (applyConfiguration s).buffersOk := by
  obtain ⟨-, hin, hout, -, -⟩ := h
  exact ⟨.zeroed _, hin, hout, .zeroed _, .zeroed _⟩

theorem effect_buffersOk {i : Instr} {s t : State} (h : Effect s i t) (hconfig : s.configOk) (hbuf : s.buffersOk) :
    t.buffersOk := by
  obtain ⟨hB, hN⟩ := sizes_of_configOk hconfig
  cases h with
  | nothing | error | unconfigure | enable => exact hbuf
  | setWindow dir => cases dir <;> exact hbuf
  | configure => exact applyConfiguration_buffersOk hbuf
  | passThrough _ _ hactive =>
    obtain ⟨hspec, hin, -, hhist, hacc⟩ := hbuf
    rw [analyzeBody_of_not_active hactive]
    exact ⟨hspec, hin, hin, hhist, hacc⟩
  | openCycle => exact openCycle_buffersOk hB hbuf hN
  | fullCycle =>
    have hsame := openCycle_sameSettings s
    refine synthesizeBody_buffersOk ?_ (openCycle_buffersOk hB hbuf hN) ?_
    · rwa [sameSettings_blockLen hsame, sameSettings_transformLen hsame]
    · rwa [sameSettings_transformLen hsame]
  | closeCycle => exact synthesizeBody_buffersOk hB hbuf hN
  | rebuild => exact rebuildSpec_buffersOk hbuf hN
  | xformFwd => exact transformFwd_buffersOk hbuf hN
  | xformInv => exact transformInv_buffersOk hbuf hN

theorem sameSettings_configOk {s t : State} (h : SameSettings s t) (hconfig : s.configOk) : t.configOk := by
  obtain ⟨hconf, -, hN, hB, -⟩ := h
  rwa [State.configOk, hconf, hN, hB]

/-- Only CONFIGURE writes the configuration, and it leaves one that passed validation or none (R85). -/
theorem effect_configOk {i : Instr} {s t : State} (h : Effect s i t) (hconfig : s.configOk) : t.configOk := by
  cases h with
  | configure _ hsize => exact hsize
  | unconfigure => exact ⟨rfl, rfl⟩
  | setWindow dir => cases dir <;> exact hconfig
  | nothing | error | enable | rebuild | xformFwd | xformInv => exact hconfig
  | passThrough _ _ hactive => rw [analyzeBody_of_not_active hactive]; exact hconfig
  | openCycle => exact sameSettings_configOk (openCycle_sameSettings s) hconfig
  | fullCycle =>
    exact sameSettings_configOk (synthesizeBody_sameSettings _)
      (sameSettings_configOk (openCycle_sameSettings s) hconfig)
  | closeCycle => exact sameSettings_configOk (synthesizeBody_sameSettings s) hconfig

/-- Outside the hook window `phaseOk` asks nothing. -/
theorem phaseOk_of_ne_hook {s : State} (h : s.phase ≠ .hook) : s.phaseOk := fun hp => absurd hp h

/-- The commands that write a stage bit are refused in the hook window, and only an active core opens it (R92). -/
theorem effect_phaseOk {i : Instr} {s t : State} (h : Effect s i t) (hphase : s.phaseOk) : t.phaseOk := by
  cases h with
  | configure hne | unconfigure hne | enable _ hne => exact phaseOk_of_ne_hook hne
  | setWindow dir => cases dir <;> exact hphase
  | nothing | error | rebuild | xformFwd | xformInv => exact hphase
  | passThrough _ _ hactive => rw [analyzeBody_of_not_active hactive]; exact hphase
  | openCycle _ hactive =>
    obtain ⟨hconf, hen, -⟩ := openCycle_sameSettings s
    intro _
    rw [hconf, hen]
    simpa [State.active] using hactive
  | fullCycle | closeCycle => exact phaseOk_of_ne_hook (by simp)

theorem effect_inv {i : Instr} {s t : State} (h : Effect s i t) (hinv : s.Inv) : t.Inv := by
  obtain ⟨hconfig, hphase, hbusy, hbuf⟩ := hinv
  obtain ⟨-, -, -, -, hsameBusy, -, hsameReset, -⟩ := effect_sameInputs h
  refine ⟨effect_configOk h hconfig, effect_phaseOk h hphase, ?_, effect_buffersOk h hconfig hbuf⟩
  rwa [State.busyOk, hsameBusy, hsameReset]

theorem clearBusy_inv {s : State} (h : s.Inv) : (clearBusy s).Inv := by
  obtain ⟨hconfig, hphase, -, hbuf⟩ := h
  exact ⟨hconfig, hphase, fun _ => rfl, hbuf⟩

theorem record_inv {s : State} (c : ErrCode) (h : s.Inv) : (record c s).Inv := h

/-- Asserting reset ends the command in progress (R114). -/
theorem assertReset_inv {s : State} (h : s.Inv) : ({ clearBusy s with inReset := true } : State).Inv := by
  obtain ⟨hconfig, hphase, -, hbuf⟩ := h
  exact ⟨hconfig, hphase, fun _ => rfl, hbuf⟩

theorem resetCore_inv (s : State) : (resetCore s).Inv :=
  ⟨⟨rfl, rfl⟩, phaseOk_of_ne_hook (s := resetCore s) (by simp [resetCore]), fun _ => rfl, resetCore_buffersOk s⟩

/-- A write of the window keeps the invariant: a command starts outside reset, and a word lies inside its buffer. -/
theorem writeLocation_inv {s : State} {off : Nat} (v : Word) (h : s.Inv) (hoff : off < 0x18000)
    (hreset : s.inReset = false) : (writeLocation (locate off) v s).Inv := by
  obtain ⟨hinBound, -, hspecBound⟩ := locate_bounds hoff
  obtain ⟨hconfig, hphase, hbusy, hbuf⟩ := h
  obtain ⟨hspec, hin, hrest⟩ := hbuf
  cases hl : locate off with
  | register r =>
    cases r with
    | cmd =>
      have hnot : ¬ (startCommand v s).inReset = true := by simp [hreset]
      exact ⟨hconfig, hphase, fun hr => absurd hr hnot, hspec, hin, hrest⟩
    | _ => exact ⟨hconfig, hphase, hbusy, hspec, hin, hrest⟩
  | inWord i =>
    have hi := hinBound i hl
    exact ⟨hconfig, hphase, hbusy, hspec, hin.setWord (by simp only [blockBytes, maxLen]; omega) v, hrest⟩
  | specWord i =>
    have hi := hspecBound i hl
    exact ⟨hconfig, hphase, hbusy, hspec.setWord (by simp only [specBytes, maxLen]; omega) v, hin, hrest⟩
  | outWord | reserved => exact ⟨hconfig, hphase, hbusy, hspec, hin, hrest⟩

theorem turn_inv {e : Option Event} {s t : State} (h : Turn s e t) (hinv : s.Inv) : t.Inv := by
  cases h with
  | stay | answer | freeAnswer | outAlloc => exact hinv
  | badWord => exact record_inv _ (clearBusy_inv hinv)
  | command _ i _ _ _ heffect => exact effect_inv heffect (clearBusy_inv hinv)
  | write _ off v hoff hreset => exact writeLocation_inv v hinv hoff hreset
  | assertReset => exact assertReset_inv hinv
  | releaseReset => exact resetCore_inv s

/-- Settles O50: every turn keeps the invariant, and the agenda is no part of it. -/
theorem stepKeepsTheInvariant : Obligations.StepKeepsTheInvariant :=
  fun _ _ hinv h => turn_inv (step_turn h) hinv

end Sys2Proof.Proofs.CoreState

/-! SUPPORT and PROOFS of the family 20_memory: how a command, a turn of the core and an access of the host end, bus
errors, and the byte lanes of a written word (spec/20_memory.md R36 to R39). -/

namespace Sys2Proof.Proofs.MemoryMap

open Sys2Proof.Machine Sys2Proof.Claims Sys2Proof.Proofs.CoreState

/-! ## Commands and turns of the core end in a next state (R17, R101) -/

/-- The machine goes on: it stops neither with a fault nor with a refusal. -/
def GoesOn (o : Host.Outcome State Fault Refusal) : Prop := ∃ t, o = .next t

theorem goesOn_next (t : State) : GoesOn (.next t) := ⟨t, rfl⟩

/-- An error of a command is noted in REG.ERR and ends no run (R101). -/
theorem goesOn_raiseError (c : ErrCode) (s : State) : GoesOn (raiseError c s) := goesOn_next _

theorem goesOn_ite {c : Prop} [Decidable c] {o o' : Host.Outcome State Fault Refusal} (h : GoesOn o)
    (h' : GoesOn o') : GoesOn (if c then o else o') := by
  split
  · exact h
  · exact h'

/-- Every path of a command is an error raised or a next state. -/
theorem exec_goesOn (i : Instr) (s : State) : GoesOn (exec i s) := by
  cases i with
  | nop => exact goesOn_next s
  | configure => exact goesOn_ite (goesOn_raiseError _ s) (goesOn_ite (goesOn_next _) (goesOn_next _))
  | setWindow dir kind =>
    simp only [exec, execSetWindow]
    split
    · exact goesOn_raiseError _ s
    · exact goesOn_ite (goesOn_raiseError _ s) (goesOn_ite (goesOn_next _) (goesOn_raiseError _ s))
  | enable | analyze | synthesize | update => exact goesOn_ite (goesOn_raiseError _ s) (goesOn_next _)
  | rebuild | xformFwd | xformInv => exact goesOn_ite (goesOn_next _) (goesOn_raiseError _ s)

theorem coreTurn_goesOn (s : State) : GoesOn (coreTurn s) := by
  cases hbusy : s.busy with
  | false => exact ⟨s, coreTurn_of_idle hbusy⟩
  | true =>
    cases hd : decode s.command with
    | none => exact ⟨_, coreTurn_of_none hbusy hd⟩
    | some i => rw [coreTurn_of_some hbusy hd]; exact exec_goesOn i _

/-! ## The three ends of an access of the host (R36, R117) -/

theorem windowOffset_of_not_inWindow {address : Nat} (h : ¬ InWindow address) : windowOffset address = none :=
  if_neg h

theorem exists_offset_of_inWindow {address : Nat} (h : InWindow address) :
    ∃ off < 0x18000, address = Config.base + off := by
  obtain ⟨hlo, hhi⟩ := h
  exact ⟨address - Config.base, by omega, by omega⟩

/-- A read of the window is refused only while busy and outside reset, and only if it is not the read of STATUS. -/
theorem readOffset_outcome (off size : Nat) (s : State) :
    GoesOn (readOffset off size s) ∨
    s.inReset = false ∧ s.busy = true ∧ ¬ (off = 4 ∧ size = 4) ∧ readOffset off size s = .refused .busyAccess := by
  unfold readOffset
  split
  · exact .inl (goesOn_next _)
  · next hreset =>
    split
    · next hundefined =>
      obtain ⟨hbusy, hother⟩ := Bool.and_eq_true_iff.1 hundefined
      refine .inr ⟨Bool.eq_false_iff.2 hreset, hbusy, ?_, rfl⟩
      rintro ⟨rfl, rfl⟩
      exact absurd hother (by decide)
    · exact .inl (goesOn_ite (goesOn_next _) (goesOn_next _))

/-- A write of the window is refused only while busy and outside reset. -/
theorem writeOffset_outcome (off size : Nat) (v : Word) (s : State) :
    GoesOn (writeOffset off size v s) ∨
    s.inReset = false ∧ s.busy = true ∧ writeOffset off size v s = .refused .busyAccess := by
  unfold writeOffset
  split
  · exact .inl (goesOn_next _)
  · next hreset =>
    split
    · next hbusy => exact .inr ⟨Bool.eq_false_iff.2 hreset, hbusy, rfl⟩
    · exact .inl (goesOn_ite (goesOn_next _) (goesOn_next _))

theorem hostAccess_of_not_inWindow {a : Access} (h : ¬ InWindow (addressOf a)) (s : State) :
    hostAccess a s = .fault .outsideWindow := by
  cases a with
  | read address size => rw [hostAccess, windowOffset_of_not_inWindow (address := address) h]
  | write address size v => rw [hostAccess, windowOffset_of_not_inWindow (address := address) h]

/-- An access inside the window goes on, or it is the forbidden access of a busy core. -/
theorem hostAccess_of_inWindow {a : Access} (h : InWindow (addressOf a)) (s : State) :
    GoesOn (hostAccess a s) ∨
    s.inReset = false ∧ s.busy = true ∧ a ≠ .read (Config.base + 4) 4 ∧ hostAccess a s = .refused .busyAccess := by
  obtain ⟨off, hoff, hat⟩ := exists_offset_of_inWindow h
  cases a with
  | read address size =>
    obtain rfl : address = Config.base + off := hat
    rw [hostAccess, windowOffset_base hoff]
    refine (readOffset_outcome off size s).imp_right fun ⟨hreset, hbusy, hother, hrefused⟩ =>
      ⟨hreset, hbusy, fun hstatus => hother ?_, hrefused⟩
    obtain ⟨haddress, hsize⟩ := Access.read.inj hstatus
    exact ⟨Nat.add_left_cancel haddress, hsize⟩
  | write address size v =>
    obtain rfl : address = Config.base + off := hat
    rw [hostAccess, windowOffset_base hoff]
    exact (writeOffset_outcome off size v s).imp_right fun ⟨hreset, hbusy, hrefused⟩ =>
      ⟨hreset, hbusy, nofun, hrefused⟩

/-- Settles O7: of the four events only an access of the host can stop the machine. -/
theorem onlyForbiddenAccessesStop : Obligations.OnlyForbiddenAccessesStop := by
  intro s
  cases hagenda : s.agenda with
  | nil => rw [step_of_nil hagenda]; exact .inl (coreTurn_goesOn s)
  | cons e rest =>
    rw [step_of_cons hagenda]
    cases e with
    | core => exact .inl (coreTurn_goesOn _)
    | resetInput | outAlloc => exact .inl (goesOn_next _)
    | host a =>
      by_cases hwindow : InWindow (addressOf a)
      · exact (hostAccess_of_inWindow hwindow _).imp_right fun ⟨hreset, hbusy, hother, hrefused⟩ =>
          .inr ⟨a, rest, rfl, hwindow, hreset, hbusy, hother, hrefused⟩
      · exact .inr (.inl ⟨a, rest, rfl, hwindow, hostAccess_of_not_inWindow hwindow _⟩)

/-! ## Bus errors (R38, R39) -/

theorem accepted_eq_false {off size : Nat} (h : size ≠ 4 ∨ off % 4 ≠ 0) : accepted off size = false :=
  Bool.eq_false_iff.2 fun hacc => by
    obtain ⟨hsize, halign⟩ := accepted_eq_true.1 hacc
    exact h.elim (absurd hsize) (absurd halign)

theorem readOffset_busError {s : State} {off size : Nat} (hreset : s.inReset = false) (hbusy : s.busy = false)
    (h : size ≠ 4 ∨ off % 4 ≠ 0) :
    readOffset off size s = .next (respond (.readError s.freeDatum) (drawFree s)) := by
  simp [readOffset, hreset, hbusy, accepted_eq_false h]

theorem writeOffset_busError {s : State} {off size : Nat} (v : Word) (hreset : s.inReset = false)
    (hbusy : s.busy = false) (h : size ≠ 4 ∨ off % 4 ≠ 0) :
    writeOffset off size v s = .next (respond .writeError s) := by
  simp [writeOffset, hreset, hbusy, accepted_eq_false h]

/-- Settles O44: the step is the access at its offset, which the port does not accept. -/
theorem busErrorChangesNoCoreState : Obligations.BusErrorChangesNoCoreState := by
  intro s off size v rest hreset hbusy hoff hbad
  refine ⟨fun hwrite => ?write, fun hread => ⟨s.freeDatum, ?read⟩⟩
  case write =>
    rw [step_of_cons hwrite, takeEvent, hostAccess, windowOffset_base hoff]
    exact writeOffset_busError v hreset hbusy hbad
  case read =>
    rw [step_of_cons hread, takeEvent, hostAccess, windowOffset_base hoff]
    exact readOffset_busError hreset hbusy hbad

/-! ## Byte lanes (R37) -/

/-- Byte `4i+b` of a memory is lane `b` of the word just written at `i`. -/
theorem getByte_setWord_lane (m : Memory) (i : Nat) (w : Word) {b : Nat} (h : b < 4) :
    (m.setWord i w).getByte (4 * i + b) = byteLane w b := by
  have hword : (4 * i + b) / 4 = i := by omega
  have hlane : (4 * i + b) % 4 = b := by omega
  rw [Memory.getByte_setWord, if_pos hword, hlane]

/-- Settles O46: the lanes written, the word they make up, and the bytes of every other word. -/
theorem wordsLieInLittleEndianLanes : Obligations.WordsLieInLittleEndianLanes := fun m i w =>
  ⟨fun _ hb => getByte_setWord_lane m i w hb, by rw [Memory.getWord_setWord, if_pos rfl],
    sameBytesOutside_setWord m i w⟩

end Sys2Proof.Proofs.MemoryMap

/-! SUPPORT and PROOFS of the family 30_encoding: the decoder answers the fourteen legal words and no other, and the
match and mask table selects the row of the decoded command (spec/30_encoding.md R51 to R57). -/

namespace Sys2Proof.Proofs.Encoding

/-! ## Decode and encode (R54) -/

/-- Every well-formed command is read back from its word. -/
theorem decode_encode {i : Instr} (hwf : i.wellFormed = true) : decode (encode i) = some i := by
  cases i with
  | nop => exact Laws.RoundTrip.nop hwf
  | configure => exact Laws.RoundTrip.configure hwf
  | setWindow dir kind => exact Laws.RoundTrip.setWindow dir kind hwf
  | enable en => exact Laws.RoundTrip.enable en hwf
  | analyze => exact Laws.RoundTrip.analyze hwf
  | rebuild => exact Laws.RoundTrip.rebuild hwf
  | synthesize => exact Laws.RoundTrip.synthesize hwf
  | update => exact Laws.RoundTrip.update hwf
  | xformFwd => exact Laws.RoundTrip.xformFwd hwf
  | xformInv => exact Laws.RoundTrip.xformInv hwf

theorem bitOfDir_dirOfBit (a : Bool) : bitOfDir (dirOfBit a) = a := by cases a <;> rfl

theorem plainCommand_eq_some {i j : Instr} {a : Bool} {kind : BitVec 2} :
    plainCommand i a kind = some j ↔ (a = false ∧ kind = 0) ∧ i = j := by
  simp [plainCommand]

/-- A word without reserved bits is `formatC` of its opcode and its other fields. -/
theorem formatC_of_opcode {w : Word} (hres : fieldReserved w = 0) {opc : BitVec 8}
    (hopc : (fieldOpc w).toNat = opc.toNat) : formatC opc (fieldA w) (fieldKind w) = w := by
  rw [← BitVec.eq_of_toNat_eq hopc, formatC_fields w hres]

/-- What the eight commands without operands have in common: their word is their opcode. -/
theorem encode_of_plainCommand {w : Word} (hres : fieldReserved w = 0) {i j : Instr} {opc : BitVec 8}
    (hopc : (fieldOpc w).toNat = opc.toNat) (hwf : i.wellFormed = true) (henc : encode i = formatC opc false 0)
    (h : plainCommand i (fieldA w) (fieldKind w) = some j) : j.wellFormed = true ∧ encode j = w := by
  obtain ⟨⟨ha, hkind⟩, rfl⟩ := plainCommand_eq_some.1 h
  have hw := formatC_of_opcode hres hopc
  rw [ha, hkind] at hw
  exact ⟨hwf, henc.trans hw⟩

/-- A word that decodes is the word of a well-formed command. -/
theorem encode_of_decode {w : Word} {i : Instr} (h : decode w = some i) : i.wellFormed = true ∧ encode i = w := by
  unfold decode at h
  split at h
  next => contradiction
  next hreserved =>
    have hres : fieldReserved w = 0 := not_not.1 hreserved
    split at h
    next hopc => exact encode_of_plainCommand hres (opc := 0x00) hopc rfl rfl h
    next hopc => exact encode_of_plainCommand hres (opc := 0x01) hopc rfl rfl h
    next hopc =>
      obtain ⟨hkind, hi⟩ := Option.ite_none_right_eq_some.1 h
      obtain rfl := Option.some.inj hi
      exact ⟨decide_eq_true hkind, by
        rw [encode, bitOfDir_dirOfBit]; exact formatC_of_opcode hres (opc := 0x02) hopc⟩
    next hopc =>
      obtain ⟨hkind, hi⟩ := Option.ite_none_right_eq_some.1 h
      obtain rfl := Option.some.inj hi
      exact ⟨rfl, by rw [encode, ← hkind]; exact formatC_of_opcode hres (opc := 0x03) hopc⟩
    next hopc => exact encode_of_plainCommand hres (opc := 0x10) hopc rfl rfl h
    next hopc => exact encode_of_plainCommand hres (opc := 0x11) hopc rfl rfl h
    next hopc => exact encode_of_plainCommand hres (opc := 0x12) hopc rfl rfl h
    next hopc => exact encode_of_plainCommand hres (opc := 0x13) hopc rfl rfl h
    next hopc => exact encode_of_plainCommand hres (opc := 0x20) hopc rfl rfl h
    next hopc => exact encode_of_plainCommand hres (opc := 0x21) hopc rfl rfl h
    next => contradiction

theorem decode_eq_some_iff {w : Word} {i : Instr} :
    decode w = some i ↔ i.wellFormed = true ∧ encode i = w :=
  ⟨encode_of_decode, fun ⟨hwf, henc⟩ => henc ▸ decode_encode hwf⟩

/-- Settles O1, by the two directions of the round trip. -/
theorem decodeAnswersExactlyTheEncodings : Obligations.DecodeAnswersExactlyTheEncodings :=
  fun _ _ => decode_eq_some_iff

/-! ## The fourteen legal words (R54) -/

/-- The well-formed commands, one for each legal word, in the order of R54. -/
def legalCommands : List Instr :=
  [.nop, .configure, .setWindow .forward 0, .setWindow .inverse 0, .setWindow .forward 1, .setWindow .inverse 1,
   .enable false, .enable true, .analyze, .rebuild, .synthesize, .update, .xformFwd, .xformInv]

/-- R55: these are all the commands that have an encoding. -/
theorem mem_legalCommands {i : Instr} : i ∈ legalCommands ↔ i.wellFormed = true := by
  cases i with
  | setWindow dir kind => revert kind; cases dir <;> decide
  | enable en => cases en <;> decide
  | nop | configure | analyze | rebuild | synthesize | update | xformFwd | xformInv => decide

/-- The table of legal words lists `i` at `w` exactly when `w` decodes to `i`. -/
theorem mem_legalWords {w : Word} {i : Instr} :
    (w, i) ∈ legalCommands.map (fun j => (encode j, j)) ↔ decode w = some i := by
  simp [decode_eq_some_iff, mem_legalCommands]

theorem decode_eq_lookup (w : Word) : decode w = (legalCommands.map fun j => (encode j, j)).lookup w := by
  cases hlookup : (legalCommands.map fun j => (encode j, j)).lookup w with
  | some i =>
    obtain ⟨before, after, hsplit, -⟩ := List.lookup_eq_some_iff.1 hlookup
    exact mem_legalWords.1 (hsplit ▸ by simp)
  | none =>
    refine Option.eq_none_iff_forall_ne_some.2 fun i hi => ?_
    have hne := List.lookup_eq_none_iff.1 hlookup _ (mem_legalWords.2 hi)
    simp at hne

/-! ## The match and mask table (R54) -/

/-- The row of the command that a word decodes to; none for BAD. -/
def decodedRow (w : Word) : Option OpcodeRow := (decode w).bind fun i => opcodeRows[rowIndex i]?

theorem decodedRow_of_decode {w : Word} {i : Instr} (h : decode w = some i) :
    decodedRow w = opcodeRows[rowIndex i]? := by
  rw [decodedRow, h, Option.bind_some]

theorem exists_row (i : Instr) : ∃ r, opcodeRows[rowIndex i]? = some r := by
  cases i <;> exact ⟨_, rfl⟩

/-- Every row fixes the opcode, and fixes the reserved bits to 0. -/
theorem fixedFields_of_mem_opcodeRows : ∀ r ∈ opcodeRows,
    fieldOpc r.maskWord = BitVec.allOnes 8 ∧ fieldReserved r.maskWord = BitVec.allOnes 21 ∧
      fieldReserved r.matchWord = 0 := by
  decide

/-- A word that a row selects differs from its match word only in the operand fields. -/
theorem formatC_of_selects {r : OpcodeRow} (hr : r ∈ opcodeRows) {w : Word} (h : r.selects w = true) :
    formatC (fieldOpc r.matchWord) (fieldA w) (fieldKind w) = w := by
  obtain ⟨hopcMask, hresMask, hresMatch⟩ := fixedFields_of_mem_opcodeRows r hr
  have hmasked : w &&& r.maskWord = r.matchWord := eq_of_beq h
  have hopc : fieldOpc w = fieldOpc r.matchWord := by
    rw [← hmasked, fieldOpc, fieldOpc, BitVec.extractLsb'_and, ← fieldOpc, ← fieldOpc, hopcMask, BitVec.and_allOnes]
  have hres : fieldReserved w = 0 := by
    rw [← hresMatch, ← hmasked, fieldReserved, fieldReserved, BitVec.extractLsb'_and, ← fieldReserved,
      ← fieldReserved, hresMask, BitVec.and_allOnes]
  rw [← hopc, formatC_fields w hres]

/-- Row by row, over the eight values of the operand fields: the values that the mask admits are the legal ones. -/
theorem decodedRow_of_selects_formatC : ∀ r ∈ opcodeRows, ∀ (a : Bool) (kind : BitVec 2),
    r.selects (formatC (fieldOpc r.matchWord) a kind) = true →
      decodedRow (formatC (fieldOpc r.matchWord) a kind) = some r := by
  decide

theorem selects_encode_of_mem_legalCommands : ∀ i ∈ legalCommands, ∀ r ∈ opcodeRows,
    opcodeRows[rowIndex i]? = some r → r.selects (encode i) = true := by
  decide

/-- The table and the decoder agree: the row that selects a word is the row of its command. -/
theorem selects_iff_decodedRow {r : OpcodeRow} (hr : r ∈ opcodeRows) {w : Word} :
    r.selects w = true ↔ decodedRow w = some r := by
  constructor
  · intro h
    have hw := formatC_of_selects hr h
    rw [← hw] at h ⊢
    exact decodedRow_of_selects_formatC r hr _ _ h
  · intro h
    obtain ⟨i, hi, hrow⟩ := Option.bind_eq_some_iff.1 h
    obtain ⟨hwf, rfl⟩ := decode_eq_some_iff.1 hi
    exact selects_encode_of_mem_legalCommands i (mem_legalCommands.2 hwf) r hr hrow

/-- Settles O2: the legal words are the encodings, and a selecting row is the decoded command's. -/
theorem decodingFollowsItsRule : Obligations.DecodingFollowsItsRule := by
  intro w
  refine ⟨decode_eq_lookup w, fun i hi => ?ownRow, fun hbad r hr => ?noRow, fun r hr r' hr' h h' => ?oneRow⟩
  case ownRow =>
    obtain ⟨r, hrow⟩ := exists_row i
    have hdecoded : decodedRow w = some r := (decodedRow_of_decode hi).trans hrow
    exact ⟨r, hrow, (selects_iff_decodedRow (List.mem_of_getElem? hrow)).2 hdecoded⟩
  case noRow =>
    refine Bool.eq_false_iff.2 fun h => ?_
    have hdecoded := (selects_iff_decodedRow hr).1 h
    rw [decodedRow, hbad] at hdecoded
    contradiction
  case oneRow =>
    have hdecoded := (selects_iff_decodedRow hr).1 h
    have hdecoded' := (selects_iff_decodedRow hr').1 h'
    exact Option.some.inj (hdecoded.symm.trans hdecoded')

/-! ## Words of the spec (R57) -/

/-- Settles O3: six words are encodings; a reserved KIND, an operand of NOP and a reserved bit are BAD. -/
theorem wordsOfTheSpecDecode : Obligations.WordsOfTheSpecDecode := by
  refine ⟨?_, ?_, ?_, ?_, ?_, ?_, ?reservedKind, ?operandOfNop, ?reservedBit⟩
  case reservedKind | operandOfNop | reservedBit => decide
  all_goals exact decode_eq_some_iff.2 ⟨rfl, rfl⟩

end Sys2Proof.Proofs.Encoding

/-! SUPPORT and PROOFS of the family 40_transform, the commands: SET_WINDOW, XFORM_FWD and XFORM_INV follow their rules,
meet the accuracy bound of FFT_F32 and take zeros to zeros (spec/40_transform.md R61, R64, R66 to R70). -/

namespace Sys2Proof.Proofs.Transform

open Sys2Proof.Machine Sys2Proof.Claims Sys2Proof.Proofs.Binary32 Sys2Proof.Proofs.CoreState

/-! ## SET_WINDOW (R70) -/

theorem decode_of_reservedKind {w : Word} (hopc : fieldOpc w = 0x02) (hkind : 2 ≤ (fieldKind w).toNat) :
    decode w = none := by
  unfold decode
  split
  next => rfl
  next => rw [hopc]; exact if_neg (not_lt.2 hkind)

/-- The two KINDs that are not reserved name a window kind, and are its encoding (R51). -/
theorem kindOfField_of_lt {kind : BitVec 2} (h : kind.toNat < 2) :
    ∃ k, kindOfField kind = some k ∧ kind = fieldOfKind k := by
  have hcases : kind = 0 ∨ kind = 1 := by bv_omega
  obtain rfl | rfl := hcases
  · exact ⟨.rect, rfl, rfl⟩
  · exact ⟨.hann, rfl, rfl⟩

theorem encode_setWindow (dir : Dir) (kind : BitVec 2) :
    encode (.setWindow dir kind) =
      0x00000002 ||| ((if dir = .inverse then 1#32 else 0#32) <<< 8) ||| (kind.zeroExtend 32 <<< 9) := by
  revert kind
  cases dir <;> decide

/-- What SET_WINDOW does with a KIND that names a window kind, in each state of the stage. -/
theorem exec_setWindow {dir : Dir} {kind : BitVec 2} {k : WinKind} (hk : kindOfField kind = some k) (s : State) :
    exec (.setWindow dir kind) s =
      if s.phase = .hook then .next { s with err := .sequence }
      else if s.configured then .next (selectWindow dir k s)
      else .next { s with err := .notConfigured } := by
  simp only [exec, execSetWindow, hk, raiseError, record]

/-- The forward kind is the low field of REG.WIN (R26). -/
theorem winWord_selectWindow_forward (k : WinKind) (s : State) :
    (selectWindow .forward k s).winWord = (s.winWord &&& 0xFFFFFFFC) ||| (fieldOfKind k).zeroExtend 32 := by
  simp only [selectWindow, State.winWord]
  cases k <;> cases s.fwdKind <;> cases s.invKind <;> decide

/-- The inverse kind is the field above it (R26). -/
theorem winWord_selectWindow_inverse (k : WinKind) (s : State) :
    (selectWindow .inverse k s).winWord =
      (s.winWord &&& 0xFFFFFFF3) ||| ((fieldOfKind k).zeroExtend 32 <<< 2) := by
  simp only [selectWindow, State.winWord]
  cases k <;> cases s.fwdKind <;> cases s.invKind <;> decide

/-- Settles O11: the two legal KINDs name a kind, and the selected field of REG.WIN becomes its encoding. -/
theorem setWindowFollowsItsRule : Obligations.SetWindowFollowsItsRule := by
  refine ⟨fun w => decode_of_reservedKind, fun dir kind hkind => ⟨encode_setWindow dir kind, fun s => ?_⟩⟩
  obtain ⟨k, hk, rfl⟩ := kindOfField_of_lt hkind
  rw [exec_setWindow hk]
  refine ⟨fun hphase => ?hook, fun hphase hconf => ?unconfigured, fun hphase hconf => ?selected⟩
  case hook => rw [if_pos hphase]
  case unconfigured => simp [hphase, hconf]
  case selected =>
    refine ⟨selectWindow dir k s, by simp [hphase, hconf], ?_, ?_⟩
    · rintro rfl; exact ⟨rfl, winWord_selectWindow_forward k s⟩
    · rintro rfl; exact ⟨rfl, winWord_selectWindow_inverse k s⟩

/-! ## Lists of 2N words -/

@[simp] theorem length_wordList (N : Nat) (f : Nat → Word) : (wordList N f).length = 2 * N := by
  simp [wordList]

theorem getD_wordList {N p : Nat} (f : Nat → Word) (hp : p < 2 * N) : (wordList N f).getD p 0 = f p :=
  getD_map_range f _ _ hp

theorem mem_wordList {N : Nat} {f : Nat → Word} {w : Word} : w ∈ wordList N f ↔ ∃ p < 2 * N, f p = w := by
  simp [wordList]

/-- A list of 2N words is the list of its elements. -/
theorem eq_wordList {ws : List Word} {N : Nat} {f : Nat → Word} (hlen : ws.length = 2 * N)
    (h : ∀ p < 2 * N, ws.getD p 0 = f p) : ws = wordList N f := by
  refine List.ext_getElem (by simp [hlen]) fun p hp hp' => ?_
  have hp2 : p < 2 * N := hlen ▸ hp
  rw [← List.getD_eq_getElem ws 0 hp, ← List.getD_eq_getElem _ 0 hp', h p hp2, getD_wordList f hp2]

theorem windowedSpec_eq_wordList (s : State) :
    s.windowedSpec = wordList s.transformLen fun p => windowed s.fwdKind s.transformLen p (s.specWord p) :=
  eq_wordList (length_windowedSpec s) fun p hp => getD_windowedSpec s p hp

theorem readWords_eq_wordList (s : State) :
    s.specBuf.readWords 0 (2 * s.transformLen) = wordList s.transformLen s.specWord :=
  eq_wordList (Memory.length_readWords _ _ _) fun p hp => by
    rw [Memory.getD_readWords _ _ _ _ hp, Nat.zero_add]; rfl

theorem inverseSpec_eq (s : State) :
    s.inverseSpec = Config.fft.run .inverse s.transformLen (wordList s.transformLen s.specWord) := by
  rw [State.inverseSpec, readWords_eq_wordList]

/-! ## The transforms word by word (R66, R67) -/

theorem transformFwd_eq_forwardWord (s : State) {p : Nat} (hp : p < 2 * s.transformLen) :
    (transformFwd s).specWord p = forwardWord s.fwdKind s.transformLen s.specWord p := by
  rw [transformFwd_specWord, if_pos hp, windowedSpec_eq_wordList]
  rfl

theorem transformInv_eq_inverseWord (s : State) {p : Nat} (hp : p < 2 * s.transformLen) :
    (transformInv s).specWord p = inverseWord s.invKind s.transformLen s.specWord p := by
  rw [transformInv_specWord, if_pos hp, inverseSpec_eq]
  rfl

/-- SPEC after the forward transform is what FFT_F32 answers. -/
theorem wordList_transformFwd (s : State) :
    wordList s.transformLen (transformFwd s).specWord =
      Config.fft.run .forward s.transformLen
        (wordList s.transformLen fun p => windowed s.fwdKind s.transformLen p (s.specWord p)) :=
  (eq_wordList (Config.fft.length_run _ _ _) fun _ hp => (transformFwd_eq_forwardWord s hp).symm).symm

/-- SPEC after the inverse transform with the rectangular window is what FFT_F32 answers. -/
theorem wordList_transformInv_of_rect {s : State} (hrect : s.invKind = .rect) :
    wordList s.transformLen (transformInv s).specWord =
      Config.fft.run .inverse s.transformLen (wordList s.transformLen s.specWord) :=
  (eq_wordList (Config.fft.length_run _ _ _) fun p hp => by
    rw [transformInv_eq_inverseWord s hp, hrect]; rfl).symm

theorem exec_xformFwd (s : State) :
    exec .xformFwd s = if s.configured then .next (transformFwd s) else .next { s with err := .notConfigured } :=
  rfl

theorem exec_xformInv (s : State) :
    exec .xformInv s = if s.configured then .next (transformInv s) else .next { s with err := .notConfigured } :=
  rfl

theorem exec_xformFwd_of_configured {s : State} (hconf : s.configured = true) :
    exec .xformFwd s = .next (transformFwd s) := by rw [exec_xformFwd, if_pos hconf]

theorem exec_xformInv_of_configured {s : State} (hconf : s.configured = true) :
    exec .xformInv s = .next (transformInv s) := by rw [exec_xformInv, if_pos hconf]

/-- Settles O21: the words, and the frame of one write of 2N words. -/
theorem forwardTransformFollowsItsRule : Obligations.ForwardTransformFollowsItsRule := by
  refine ⟨rfl, fun s => ⟨fun hconf => ?_, fun hconf => ?_⟩⟩
  · simp [exec_xformFwd, hconf]
  · obtain ⟨hspec, -, -⟩ := transformFwd_keepsBeyond s
    exact ⟨_, exec_xformFwd_of_configured hconf, transformFwd_eq s, fun p => transformFwd_eq_forwardWord s, hspec⟩

/-- Settles O22: as for the forward transform, with the window after it. -/
theorem inverseTransformFollowsItsRule : Obligations.InverseTransformFollowsItsRule := by
  refine ⟨rfl, fun s => ⟨fun hconf => ?_, fun hconf => ?_⟩⟩
  · simp [exec_xformInv, hconf]
  · obtain ⟨hspec, -, -⟩ := transformInv_keepsBeyond s
    exact ⟨_, exec_xformInv_of_configured hconf, transformInv_eq s, fun p => transformInv_eq_inverseWord s, hspec⟩

/-! ## What FFT_F32 keeps (R64) -/

/-- R64 (2) for the words `f`. -/
theorem withinBound_run (d : Dir) {N : Nat} {f : Nat → Word} (hN : 0 < N)
    (hf : ∀ p < 2 * N, fpIsFinite (f p) = true) :
    WithinBound Config.fft.eps d N (wordList N f) (Config.fft.run d N (wordList N f)) :=
  Config.fft.accurate d N _ hN (length_wordList N f) fun w hw => by
    obtain ⟨p, hp, rfl⟩ := mem_wordList.1 hw
    exact hf p hp

/-- Settles O23: both commands leave in SPEC what FFT_F32 answers. -/
theorem transformsMeetTheAccuracyBound : Obligations.TransformsMeetTheAccuracyBound := by
  intro s hconf hN
  refine ⟨fun hfinite => ⟨_, exec_xformFwd_of_configured hconf, ?_⟩,
    fun hfinite hrect => ⟨_, exec_xformInv_of_configured hconf, ?_⟩⟩
  · rw [wordList_transformFwd]
    exact withinBound_run .forward hN hfinite
  · rw [wordList_transformInv_of_rect hrect]
    exact withinBound_run .inverse hN hfinite

/-- R64 (3) for the words `f`. -/
theorem isZeroWord_run (d : Dir) {N p : Nat} {f : Nat → Word} (hf : ∀ q < 2 * N, IsZeroWord (f q))
    (hp : p < 2 * N) : IsZeroWord ((Config.fft.run d N (wordList N f)).getD p 0) := by
  have hp' : p < (Config.fft.run d N (wordList N f)).length := by rwa [Config.fft.length_run]
  rw [List.getD_eq_getElem _ _ hp']
  refine Config.fft.zeros d N _ (length_wordList N f) (fun w hw => ?_) _ (List.getElem_mem hp')
  obtain ⟨q, hq, rfl⟩ := mem_wordList.1 hw
  exact hf q hq

theorem isZeroWord_signedZero (sign : Bool) : IsZeroWord (signedZero sign) := by
  cases sign
  · exact .inl rfl
  · exact .inr rfl

theorem fpIsZero_of_isZeroWord {w : Word} (h : IsZeroWord w) : fpIsZero w = true := by
  obtain rfl | rfl := h <;> decide

/-- A window keeps zeros zero, because its coefficients are finite (R61). -/
theorem isZeroWord_windowed (kind : WinKind) (N p : Nat) {w : Word} (h : IsZeroWord w) :
    IsZeroWord (windowed kind N p w) := by
  unfold windowed
  split
  · obtain ⟨hfinite, -⟩ := hannWord_finite N (p / 2)
    rw [(fmul32_zero hfinite (fpIsZero_of_isZeroWord h)).2]
    exact isZeroWord_signedZero _
  · exact h

/-- Settles O24: windows and FFT_F32 take zeros to zeros. -/
theorem transformsOfZerosAreZeros : Obligations.TransformsOfZerosAreZeros := by
  intro s hconf hzero
  refine ⟨⟨_, exec_xformFwd_of_configured hconf, fun p hp => ?_⟩,
    ⟨_, exec_xformInv_of_configured hconf, fun p hp => ?_⟩⟩
  · rw [transformFwd_eq_forwardWord s hp]
    exact isZeroWord_run .forward (fun q hq => isZeroWord_windowed _ _ q (hzero q hq)) hp
  · rw [transformInv_eq_inverseWord s hp]
    exact isZeroWord_windowed _ _ p (isZeroWord_run .inverse hzero hp)

end Sys2Proof.Proofs.Transform

/-! SUPPORT and PROOFS of the family 40_transform, the exact transforms: they undo each other, and real samples have a
Hermitian spectrum (spec/40_transform.md R62, R63, R65, R71). -/

namespace Sys2Proof.Proofs.ExactDft

open Sys2Proof.Machine Sys2Proof.Claims

/-! ## Twiddle factors as powers of a root of unity -/

/-- The twiddle factor of a direction at `k = n = 1`. -/
noncomputable def rootOfUnity (d : Dir) (N : Nat) : ℂ := twiddle d N 1 1

theorem twiddle_eq_pow (d : Dir) (N k n : Nat) : twiddle d N k n = rootOfUnity d N ^ (k * n) := by
  cases d <;> (simp only [rootOfUnity, twiddle]; rw [← Complex.exp_nat_mul]; push_cast; ring_nf)

theorem rootOfUnity_forward (N : Nat) : rootOfUnity .forward N = (rootOfUnity .inverse N)⁻¹ :=
  Complex.exp_neg _

theorem rootOfUnity_isPrimitiveRoot (d : Dir) {N : Nat} (hN : 0 < N) : IsPrimitiveRoot (rootOfUnity d N) N := by
  have hinverse : IsPrimitiveRoot (rootOfUnity .inverse N) N := by
    have hexp : rootOfUnity .inverse N = Complex.exp (2 * Real.pi * Complex.I / N) := by
      simp [rootOfUnity, twiddle, div_eq_mul_inv]
    rw [hexp]
    exact Complex.isPrimitiveRoot_exp N hN.ne'
  cases d
  · rw [rootOfUnity_forward]; exact hinverse.inv
  · exact hinverse

/-! ## Inversion (R71) -/

/-- Orthogonality: powers of a root of unity and of its inverse sum to `N` on the diagonal and to zero elsewhere. -/
theorem sum_pow_mul_pow {N n m : Nat} {ω ω' : ℂ} (hω : IsPrimitiveRoot ω N) (hinv : ω' * ω = 1) (hn : n < N)
    (hm : m < N) : ∑ k ∈ Finset.range N, ω' ^ (k * m) * ω ^ (n * k) = if m = n then (N : ℂ) else 0 := by
  have hterm : ∀ k, ω' ^ (k * m) * ω ^ (n * k) = (ω' ^ m * ω ^ n) ^ k := fun k => by
    rw [mul_pow, ← pow_mul, ← pow_mul, mul_comm k m]
  simp only [hterm]
  split
  next h => subst h; simp [← mul_pow, hinv]
  next h =>
    have hω' : ω' ^ N = 1 := by
      simpa [mul_pow, hω.pow_eq_one] using congrArg (· ^ N) hinv
    have hone : (ω' ^ m * ω ^ n) ^ N = 1 := by
      rw [mul_pow, ← pow_mul, ← pow_mul, mul_comm m, mul_comm n, pow_mul, pow_mul, hω', hω.pow_eq_one, one_pow,
        one_pow, one_mul]
    have hne : ω' ^ m * ω ^ n ≠ 1 := fun heq => h <| hω.pow_inj hm hn <| by
      calc ω ^ m = ω ^ m * (ω' ^ m * ω ^ n) := by rw [heq, mul_one]
        _ = (ω' * ω) ^ m * ω ^ n := by rw [mul_pow]; ring
        _ = ω ^ n := by rw [hinv, one_pow, one_mul]
    rw [geom_sum_eq hne, hone, sub_self, zero_div]

/-- Two transforms in opposite directions: the sums change places, and orthogonality leaves one term. -/
theorem exactDft_exactDft {d d' : Dir} {N n : Nat} (z : Nat → ℂ) (hroot : rootOfUnity d' N * rootOfUnity d N = 1)
    (hscale : dftScale d N * dftScale d' N * N = 1) (hn : n < N) :
    exactDft d N (exactDft d' N z) n = z n := by
  have hω := rootOfUnity_isPrimitiveRoot d (Nat.zero_lt_of_lt hn)
  have hscale' : (dftScale d N : ℂ) * dftScale d' N * N = 1 := by exact_mod_cast hscale
  calc exactDft d N (exactDft d' N z) n
    _ = dftScale d N * dftScale d' N *
          ∑ m ∈ Finset.range N, z m *
            ∑ k ∈ Finset.range N, rootOfUnity d' N ^ (k * m) * rootOfUnity d N ^ (n * k) := by
        simp only [exactDft, twiddle_eq_pow, Finset.mul_sum, Finset.sum_mul]
        rw [Finset.sum_comm]
        exact Finset.sum_congr rfl fun m _ => Finset.sum_congr rfl fun k _ => by ring
    _ = dftScale d N * dftScale d' N * ∑ m ∈ Finset.range N, z m * if m = n then (N : ℂ) else 0 := by
        congr 1
        exact Finset.sum_congr rfl fun m hm => by rw [sum_pow_mul_pow hω hroot hn (Finset.mem_range.1 hm)]
    _ = dftScale d N * dftScale d' N * N * z n := by
        simp only [mul_ite, mul_zero, Finset.sum_ite_eq', Finset.mem_range, hn, if_true]
        ring
    _ = z n := by rw [hscale', one_mul]

/-- Settles O25: either direction may come first. -/
theorem exactTransformsAreInverse : Obligations.ExactTransformsAreInverse := by
  intro N z n hN hn
  have hne : rootOfUnity .inverse N ≠ 0 := (rootOfUnity_isPrimitiveRoot .inverse hN).ne_zero hN.ne'
  have hN' : (N : ℝ) ≠ 0 := Nat.cast_ne_zero.2 hN.ne'
  constructor
  · exact exactDft_exactDft z (by rw [rootOfUnity_forward, inv_mul_cancel₀ hne]) (by simp [dftScale, hN']) hn
  · exact exactDft_exactDft z (by rw [rootOfUnity_forward, mul_inv_cancel₀ hne]) (by simp [dftScale, hN']) hn

/-! ## The spectrum of real samples (R65) -/

/-- The factors of bins `k` and `k'` are conjugate when `k + k'` is a multiple of `N`. -/
theorem twiddle_eq_conj {N k k' : Nat} (d : Dir) (hN : 0 < N) (hk : N ∣ k + k') (n : Nat) :
    twiddle d N k' n = (starRingEnd ℂ) (twiddle d N k n) := by
  have hmul : twiddle d N k n * twiddle d N k' n = 1 := by
    rw [twiddle_eq_pow, twiddle_eq_pow, ← pow_add, ← add_mul]
    exact ((rootOfUnity_isPrimitiveRoot d hN).pow_eq_one_iff_dvd _).2 (hk.mul_right n)
  rw [← Complex.inv_eq_conj (Config.norm_twiddle d N k n)]
  exact eq_inv_of_mul_eq_one_right hmul

/-- R65 for any two bins that mirror each other, bin 0 and bin N/2 with themselves. -/
theorem exactDft_eq_conj {N k k' : Nat} {z : Nat → ℂ} (d : Dir) (hN : 0 < N) (hreal : ∀ n < N, (z n).im = 0)
    (hk : N ∣ k + k') : exactDft d N z k' = (starRingEnd ℂ) (exactDft d N z k) := by
  simp only [exactDft, map_mul, map_sum, Complex.conj_ofReal]
  congr 1
  refine Finset.sum_congr rfl fun n hn => ?_
  rw [twiddle_eq_conj d hN hk, Complex.conj_eq_iff_im.2 (hreal n (Finset.mem_range.1 hn))]

/-- Settles O26: bins 0 and N/2 are their own mirror images. -/
theorem exactSpectrumOfRealSamplesIsHermitian : Obligations.ExactSpectrumOfRealSamplesIsHermitian := by
  intro N z hN hreal
  have hmirror {k k' : Nat} (hk : N ∣ k + k') := exactDft_eq_conj .forward hN hreal hk
  refine ⟨fun k _ hk => hmirror ⟨1, by omega⟩, ?_, fun heven => ?_⟩
  · exact Complex.conj_eq_iff_im.1 (hmirror ⟨0, rfl⟩).symm
  · exact Complex.conj_eq_iff_im.1 (hmirror ⟨1, by omega⟩).symm

end Sys2Proof.Proofs.ExactDft

/-! SUPPORT and PROOFS of the family 40_transform, the window coefficients: the fixed-point cosine series stays near the
exact Hann coefficient, no coefficient of a supported length lies near a rounding midpoint, and so each is rounded
correctly (spec/40_transform.md R59, R60). -/

namespace Sys2Proof.Proofs.HannTable

open Sys2Proof.Machine Sys2Proof.Claims Sys2Proof.Proofs.Binary32

/-! ## Mirrored and scaled indices -/

/-- The table is symmetric (R60). -/
theorem hannWord_reflect {N i : Nat} (hi : i ≤ N) : hannWord N (N - i) = hannWord N i := by
  have hmin : min (N - i) (N - (N - i)) = min i (N - i) := by omega
  rw [hannWord, hannWord, hannUnits, hannUnits, hmin]

/-- A coefficient depends only on `i / N`. -/
theorem hannWord_scale (N i : Nat) {c : Nat} (hc : 0 < c) : hannWord (c * N) (c * i) = hannWord N i := by
  have hx : min (c * i) (c * N - c * i) * 2 * piUnits / (c * N) = min i (N - i) * 2 * piUnits / N := by
    rw [← Nat.mul_sub, Nat.mul_min_mul_left, mul_assoc c, mul_assoc c, Nat.mul_div_mul_left _ _ hc]
  rw [hannWord, hannWord, hannUnits, hannUnits, hx]

theorem exactHann_reflect {N i : Nat} (hN : 0 < N) (hi : i ≤ N) : exactHann N (N - i) = exactHann N i := by
  have hangle : 2 * Real.pi * (((N - i : Nat) : ℝ) / N) = 2 * Real.pi - 2 * Real.pi * ((i : ℝ) / N) := by
    have : (N : ℝ) ≠ 0 := Nat.cast_ne_zero.2 hN.ne'
    push_cast [hi]
    field_simp
  rw [exactHann, exactHann, hangle, Real.cos_two_pi_sub]

theorem exactHann_scale (N i : Nat) {c : Nat} (hc : 0 < c) : exactHann (c * N) (c * i) = exactHann N i := by
  have : (c : ℝ) ≠ 0 := Nat.cast_ne_zero.2 hc.ne'
  rw [exactHann, exactHann, Nat.cast_mul, Nat.cast_mul, mul_div_mul_left _ _ this]

/-! ## What is left of the cosine series after some terms -/

/-- The cosine series from its term `k` on, with the sign of that term made positive. -/
noncomputable def cosRest (x : ℝ) : Nat → ℝ
  | 0 => Real.cos x
  | k + 1 => x ^ (2 * k) / (2 * k).factorial - cosRest x k

theorem ofReal_mul_I_pow_even (x : ℝ) (k : Nat) :
    ((x : ℂ) * Complex.I) ^ (2 * k) = (((-1) ^ k * x ^ (2 * k) : ℝ) : ℂ) := by
  rw [mul_pow, pow_mul Complex.I, Complex.I_sq]
  push_cast
  ring

/-- It is the real part, up to sign, of what the exponential series leaves after `2k` terms. -/
theorem cosRest_eq_re (x : ℝ) (k : Nat) :
    cosRest x k = (-1) ^ k *
      (Complex.exp (x * Complex.I) - ∑ m ∈ Finset.range (2 * k), ((x : ℂ) * Complex.I) ^ m / m.factorial).re := by
  induction k with
  | zero => simp [cosRest, Complex.exp_ofReal_mul_I_re]
  | succ k ih =>
    have heven : (((x : ℂ) * Complex.I) ^ (2 * k) / (2 * k).factorial).re =
        (-1) ^ k * (x ^ (2 * k) / (2 * k).factorial) := by
      rw [ofReal_mul_I_pow_even, ← Complex.ofReal_natCast, ← Complex.ofReal_div, Complex.ofReal_re, mul_div_assoc]
    have hodd : (((x : ℂ) * Complex.I) ^ (2 * k + 1) / (2 * k + 1).factorial).re = 0 := by
      rw [pow_succ, ofReal_mul_I_pow_even, ← Complex.ofReal_natCast, Complex.div_ofReal_re, ← mul_assoc,
        ← Complex.ofReal_mul, Complex.re_ofReal_mul, Complex.I_re, mul_zero, zero_div]
    have hsign : ((-1 : ℝ) ^ k) * (-1) ^ k = 1 := by rw [← mul_pow]; norm_num
    rw [show 2 * (k + 1) = 2 * k + 1 + 1 by ring, Finset.sum_range_succ, Finset.sum_range_succ, cosRest, ih,
      Complex.sub_re, Complex.sub_re, Complex.add_re, Complex.add_re, heven, hodd, pow_succ]
    linear_combination (-(x ^ (2 * k) / (2 * k).factorial)) * hsign

theorem abs_cosRest_le {x : ℝ} {k : Nat} (hk : |x| / (2 * k + 1) ≤ 1 / 2) :
    |cosRest x k| ≤ |x| ^ (2 * k) / (2 * k).factorial * 2 := by
  have hnorm : ‖(x : ℂ) * Complex.I‖ = |x| := by simp
  have hbound := Complex.exp_bound' (x := x * Complex.I) (n := 2 * k) (by rw [hnorm]; exact_mod_cast hk)
  rw [hnorm] at hbound
  rw [cosRest_eq_re, abs_mul, abs_pow, abs_neg, abs_one, one_pow, one_mul]
  exact (Complex.abs_re_le_norm _).trans hbound

/-! ## The error of the fixed-point series -/

theorem abs_natDiv_sub_le (a b : Nat) : |((a / b : Nat) : ℝ) - a / b| ≤ 1 := by
  rcases Nat.eq_zero_or_pos b with rfl | hb
  · simp
  · have hb' : (0 : ℝ) < b := Nat.cast_pos.2 hb
    have hlow : ((a / b : Nat) : ℝ) ≤ a / b := Nat.cast_div_le
    have hhigh : (a : ℝ) / b ≤ (a / b : Nat) + 1 := by
      rw [div_le_iff₀ hb']
      exact_mod_cast (Nat.lt_div_mul_add hb (a := a)).le.trans_eq (by ring)
    rw [abs_le]
    constructor <;> linarith

/-- The value 1 in units of 2^-149. -/
noncomputable def oneUnits : ℝ := 2 ^ 149

theorem oneUnits_pos : 0 < oneUnits := by unfold oneUnits; positivity

theorem mulUnits_error (a b : Nat) : |(mulUnits a b : ℝ) - a * b / oneUnits| ≤ 1 := by
  have h := abs_natDiv_sub_le (a * b) (2 ^ 149)
  rwa [Nat.cast_mul, Nat.cast_pow, Nat.cast_ofNat] at h

theorem cosTerm_succ (x : ℝ) (k : Nat) :
    x ^ (2 * (k + 1)) / (2 * (k + 1)).factorial =
      x ^ (2 * k) / (2 * k).factorial * x ^ 2 / ((2 * k + 1) * (2 * k + 2) : Nat) := by
  rw [show 2 * (k + 1) = 2 * k + 1 + 1 by ring, Nat.factorial_succ, Nat.factorial_succ]
  push_cast
  field_simp
  ring

section Series

variable {x : ℝ} {x2 : Nat} (hx : x ^ 2 ≤ 10) (hx2 : |(x2 : ℝ) - oneUnits * x ^ 2| ≤ 1) (hx2' : x2 ≤ 10 * 2 ^ 149)

include hx2' in
/-- From the second term on the terms do not grow. -/
theorem nextTerm_le {k : Nat} (hk : 1 ≤ k) (t : Nat) : mulUnits t x2 / ((2 * k + 1) * (2 * k + 2)) ≤ t := by
  have hd : 12 ≤ (2 * k + 1) * (2 * k + 2) := by nlinarith
  have hmul : mulUnits t x2 ≤ 10 * t := by
    refine Nat.div_le_of_le_mul ?_
    calc t * x2 ≤ t * (10 * 2 ^ 149) := Nat.mul_le_mul_left t hx2'
      _ = 2 ^ 149 * (10 * t) := by ring
  exact Nat.div_le_of_le_mul (by nlinarith)

include hx hx2 in
/-- One division adds at most 2 to a term's error. -/
theorem nextTerm_error {k t : Nat} {e : ℝ} (hk : 1 ≤ k) (ht : (t : ℝ) ≤ 5 * oneUnits)
    (he : |(t : ℝ) - oneUnits * (x ^ (2 * k) / (2 * k).factorial)| ≤ e) :
    |((mulUnits t x2 / ((2 * k + 1) * (2 * k + 2)) : Nat) : ℝ) -
      oneUnits * (x ^ (2 * (k + 1)) / (2 * (k + 1)).factorial)| ≤ e + 2 := by
  have hd : (12 : ℝ) ≤ ((2 * k + 1) * (2 * k + 2) : Nat) := by
    have : 12 ≤ (2 * k + 1) * (2 * k + 2) := by nlinarith
    exact_mod_cast this
  rw [cosTerm_succ]
  generalize x ^ (2 * k) / ((2 * k).factorial : ℝ) = τ at he ⊢
  have hdiv := abs_natDiv_sub_le (mulUnits t x2) ((2 * k + 1) * (2 * k + 2))
  generalize (2 * k + 1) * (2 * k + 2) = d at hd hdiv ⊢
  have hprod : |(t : ℝ) * x2 / oneUnits - oneUnits * (τ * x ^ 2)| ≤ 5 + 10 * e := by
    have hsplit : (t : ℝ) * x2 / oneUnits - oneUnits * (τ * x ^ 2) =
        t / oneUnits * (x2 - oneUnits * x ^ 2) + x ^ 2 * (t - oneUnits * τ) := by
      field_simp [oneUnits_pos.ne']
      ring
    have hfirst : |(t : ℝ) / oneUnits * (x2 - oneUnits * x ^ 2)| ≤ 5 * 1 := by
      rw [abs_mul, abs_of_nonneg (div_nonneg t.cast_nonneg oneUnits_pos.le)]
      exact mul_le_mul (by rwa [div_le_iff₀ oneUnits_pos]) hx2 (abs_nonneg _) (by norm_num)
    have hsecond : |x ^ 2 * ((t : ℝ) - oneUnits * τ)| ≤ 10 * e := by
      rw [abs_mul, abs_of_nonneg (by positivity)]
      exact mul_le_mul hx he (abs_nonneg _) (by norm_num)
    rw [hsplit]
    linarith [abs_add_le ((t : ℝ) / oneUnits * (x2 - oneUnits * x ^ 2)) (x ^ 2 * (t - oneUnits * τ))]
  have hmul : |(mulUnits t x2 : ℝ) - oneUnits * (τ * x ^ 2)| ≤ 6 + 10 * e := by
    linarith [abs_sub_le (mulUnits t x2 : ℝ) (t * x2 / oneUnits) (oneUnits * (τ * x ^ 2)), mulUnits_error t x2]
  have hquot : |(mulUnits t x2 : ℝ) / d - oneUnits * (τ * x ^ 2 / d)| ≤ 1 + e := by
    rw [← mul_div_assoc, ← sub_div, abs_div, abs_of_pos (by linarith : (0 : ℝ) < d), div_le_iff₀ (by linarith)]
    nlinarith [(abs_nonneg _).trans he]
  linarith [abs_sub_le ((mulUnits t x2 / d : Nat) : ℝ) ((mulUnits t x2 : ℝ) / d) (oneUnits * (τ * x ^ 2 / d))]

include hx hx2 hx2' in
/-- The error of `fuel` terms: each carries the first one's and what the divisions before it added, and what is left
of the series stays out. -/
theorem cosTail_error (fuel : Nat) {k t : Nat} {e : ℝ} (hk : 1 ≤ k) (ht : (t : ℝ) ≤ 5 * oneUnits)
    (he : |(t : ℝ) - oneUnits * (x ^ (2 * k) / (2 * k).factorial)| ≤ e) :
    |(cosTail x2 fuel k t : ℝ) - oneUnits * cosRest x k| ≤
      fuel * e + fuel * (fuel - 1) + oneUnits * |cosRest x (k + fuel)| := by
  induction fuel generalizing k t e with
  | zero => simp [cosTail, abs_mul, abs_of_pos oneUnits_pos]
  | succ fuel ih =>
    have hle := nextTerm_le hx2' hk t
    have hnext := ih (k := k + 1) (by omega) ((Nat.cast_le.2 hle).trans ht) (nextTerm_error hx hx2 hk ht he)
    have hcast : (cosTail x2 (fuel + 1) k t : ℝ) =
        t - (cosTail x2 fuel (k + 1) (mulUnits t x2 / ((2 * k + 1) * (2 * k + 2))) : Nat) := by
      rw [cosTail, Nat.cast_sub ((cosTail_le _ _ _ _).trans hle)]
    have hrest : cosRest x k = x ^ (2 * k) / (2 * k).factorial - cosRest x (k + 1) := by rw [cosRest]; ring
    rw [hcast, hrest, show k + (fuel + 1) = k + 1 + fuel by ring]
    generalize ((cosTail x2 fuel (k + 1) _ : Nat) : ℝ) = c at hnext ⊢
    have htri := abs_sub ((t : ℝ) - oneUnits * (x ^ (2 * k) / (2 * k).factorial)) (c - oneUnits * cosRest x (k + 1))
    push_cast
    rw [show (t : ℝ) - c - oneUnits * (x ^ (2 * k) / (2 * k).factorial - cosRest x (k + 1)) =
      t - oneUnits * (x ^ (2 * k) / (2 * k).factorial) - (c - oneUnits * cosRest x (k + 1)) by ring]
    linarith

end Series

/-! ## The error of the fixed-point coefficient -/

theorem piUnits_error : |(piUnits : ℝ) / oneUnits - Real.pi| ≤ 1 / 10 ^ 20 := by
  have hlow : (3.14159265358979323846 : ℝ) ≤ piUnits / oneUnits := by
    rw [le_div_iff₀ oneUnits_pos, oneUnits, piUnits]; norm_num
  have hhigh : (piUnits : ℝ) / oneUnits ≤ 3.14159265358979323847 := by
    rw [div_le_iff₀ oneUnits_pos, oneUnits, piUnits]; norm_num
  rw [abs_le]
  constructor <;> linarith [Real.pi_gt_d20, Real.pi_lt_d20]

/-- The argument of the cosine series, in units, for an index of the first half. -/
def angleUnits (N i : Nat) : Nat := i * 2 * piUnits / N

theorem ratio_of_firstHalf {N i : Nat} (hi : 2 * i ≤ N) : 0 ≤ 2 * ((i : ℝ) / N) ∧ 2 * ((i : ℝ) / N) ≤ 1 := by
  refine ⟨by positivity, ?_⟩
  rw [← mul_div_assoc]
  exact div_le_one_of_le₀ (by exact_mod_cast hi) N.cast_nonneg

theorem angleUnits_error {N i : Nat} (hi : 2 * i ≤ N) :
    |(angleUnits N i : ℝ) / oneUnits - 2 * Real.pi * ((i : ℝ) / N)| ≤ 1 / 10 ^ 20 + 1 / oneUnits := by
  have hdiv := abs_natDiv_sub_le (i * 2 * piUnits) N
  obtain ⟨hratio', hratio⟩ := ratio_of_firstHalf hi
  have hsplit : (angleUnits N i : ℝ) / oneUnits - 2 * Real.pi * ((i : ℝ) / N) =
      ((angleUnits N i : ℝ) - (i * 2 * piUnits : Nat) / N) / oneUnits +
        2 * ((i : ℝ) / N) * (piUnits / oneUnits - Real.pi) := by
    have := oneUnits_pos.ne'
    push_cast
    field_simp
    ring
  have hfirst : |((angleUnits N i : ℝ) - (i * 2 * piUnits : Nat) / N) / oneUnits| ≤ 1 / oneUnits := by
    rw [abs_div, abs_of_pos oneUnits_pos]
    exact div_le_div_of_nonneg_right hdiv oneUnits_pos.le
  have hsecond : |2 * ((i : ℝ) / N) * (piUnits / oneUnits - Real.pi)| ≤ 1 / 10 ^ 20 := by
    rw [abs_mul, abs_of_nonneg hratio']
    exact (mul_le_of_le_one_left (abs_nonneg _) hratio).trans piUnits_error
  rw [hsplit]
  linarith [abs_add_le (((angleUnits N i : ℝ) - (i * 2 * piUnits : Nat) / N) / oneUnits)
    (2 * ((i : ℝ) / N) * (piUnits / oneUnits - Real.pi))]

theorem hannUnits_of_firstHalf {N i : Nat} (hi : 2 * i ≤ N) :
    hannUnits N i = cosTail (mulUnits (angleUnits N i) (angleUnits N i)) 32 1
      (mulUnits (angleUnits N i) (angleUnits N i) / 2) / 2 := by
  rw [hannUnits, min_eq_left (by omega)]
  rfl

/-- What 32 terms leave out is less than a unit. -/
theorem cosRest_33_small {x : ℝ} (hx : |x| ≤ 3.15) : oneUnits * |cosRest x 33| ≤ 1 := by
  have hbound : |cosRest x 33| ≤ 3.15 ^ 66 / (66).factorial * 2 :=
    (abs_cosRest_le (by push_cast; linarith)).trans (by gcongr)
  refine (mul_le_mul_of_nonneg_left hbound oneUnits_pos.le).trans ?_
  unfold oneUnits
  norm_num [Nat.factorial]

/-- 32 terms of the series give `1 - cos x` for every argument that can occur. -/
theorem cosTail_32_error {a : Nat} (ha : (a : ℝ) / oneUnits ≤ 3.15) :
    |(cosTail (mulUnits a a) 32 1 (mulUnits a a / 2) : ℝ) - oneUnits * (1 - Real.cos (a / oneUnits))| ≤ 2000 := by
  have ha0 : 0 ≤ (a : ℝ) / oneUnits := div_nonneg a.cast_nonneg oneUnits_pos.le
  have hmul := mulUnits_error a a
  have hsq : (a : ℝ) * a / oneUnits = oneUnits * ((a : ℝ) / oneUnits) ^ 2 := by
    have := oneUnits_pos.ne'
    field_simp
  rw [hsq] at hmul
  generalize (a : ℝ) / oneUnits = x at ha ha0 hmul ⊢
  generalize mulUnits a a = x2 at hmul ⊢
  have hone : (10 : ℝ) ^ 40 ≤ oneUnits := by unfold oneUnits; norm_num
  have hx : x ^ 2 ≤ 3.15 ^ 2 := by gcongr
  have hx2 : (x2 : ℝ) ≤ 10 * oneUnits := by
    have := mul_le_mul_of_nonneg_left hx oneUnits_pos.le
    linarith [(abs_le.1 hmul).2]
  have hfirst : |((x2 / 2 : Nat) : ℝ) - oneUnits * (x ^ (2 * 1) / (2 * 1).factorial)| ≤ 2 := by
    have hhalf := abs_natDiv_sub_le x2 2
    have hterm : x ^ (2 * 1) / ((2 * 1).factorial : ℝ) = x ^ 2 / 2 := by norm_num [Nat.factorial]
    rw [hterm]
    rw [abs_le] at hhalf hmul ⊢
    push_cast at hhalf
    constructor <;> linarith [hhalf.1, hhalf.2, hmul.1, hmul.2]
  have hrest : oneUnits * |cosRest x 33| ≤ 1 := cosRest_33_small (by rwa [abs_of_nonneg ha0])
  have herror := cosTail_error (x := x) (x2 := x2) (by linarith) hmul
    (by rw [oneUnits] at hx2; exact_mod_cast hx2) 32 le_rfl
    (by linarith [Nat.cast_div_le (α := ℝ) (m := x2) (n := 2), Nat.cast_ofNat (R := ℝ) (n := 2)]) hfirst
  have hcos : cosRest x 1 = 1 - Real.cos x := by simp [cosRest]
  rw [hcos] at herror
  push_cast at herror
  linarith

/-- The model's coefficient lies far closer to the exact one than any rounding midpoint will (log entry 10). -/
theorem hannUnits_error {N i : Nat} (hi : 2 * i ≤ N) :
    |(hannUnits N i : ℝ) - oneUnits * exactHann N i| ≤ 2 ^ 95 := by
  have hangle := angleUnits_error hi
  have hθ : 2 * Real.pi * ((i : ℝ) / N) ≤ Real.pi := by nlinarith [Real.pi_pos, (ratio_of_firstHalf hi).2]
  have hone : oneUnits = 2 ^ 149 := rfl
  have hinv : 1 / oneUnits ≤ 1 / 10 ^ 40 := by rw [hone]; norm_num
  have ha : (angleUnits N i : ℝ) / oneUnits ≤ 3.15 := by
    linarith [(abs_le.1 hangle).2, Real.pi_lt_d20]
  have hseries := cosTail_32_error ha
  have hcos := (Real.abs_cos_sub_cos_le ((angleUnits N i : ℝ) / oneUnits) (2 * Real.pi * ((i : ℝ) / N))).trans hangle
  rw [hannUnits_of_firstHalf hi, exactHann]
  generalize cosTail _ _ _ _ = c at hseries ⊢
  have hhalf := abs_natDiv_sub_le c 2
  generalize ((c / 2 : Nat) : ℝ) = h at hhalf ⊢
  generalize Real.cos (2 * Real.pi * ((i : ℝ) / N)) = u at hcos ⊢
  generalize Real.cos ((angleUnits N i : ℝ) / oneUnits) = v at hcos hseries ⊢
  rw [abs_le] at *
  push_cast at hhalf
  rw [hone] at *
  constructor <;> linarith [hcos.1, hcos.2, hhalf.1, hhalf.2, hseries.1, hseries.2]

/-! ## Rounding away from the midpoints -/

/-- `a` is at most as far from `x` as `b` is: an affine condition on `x`. -/
theorem abs_sub_le_abs_sub_iff (a b x : ℝ) : |a - x| ≤ |b - x| ↔ 0 ≤ (b - a) * (a + b - 2 * x) := by
  rw [← sq_le_sq, ← sub_nonneg]
  ring_nf

theorem abs_sub_eq_abs_sub_iff (a b x : ℝ) : |a - x| = |b - x| ↔ (b - a) * (a + b - 2 * x) = 0 := by
  rw [← sq_eq_sq_iff_abs_eq_abs, ← sub_eq_zero, ← neg_eq_zero]
  ring_nf

/-- A word nearest to both ends of an interval is nearest to every point of it. -/
theorem isNearest_of_between {lo hi r : ℝ} {w : Word} (hlo : IsNearestBinary32 lo w) (hhi : IsNearestBinary32 hi w)
    (hlr : lo ≤ r) (hrh : r ≤ hi) : IsNearestBinary32 r w := by
  obtain ⟨hfinite, hlo⟩ := hlo
  refine ⟨hfinite, fun v hv => ?_⟩
  obtain ⟨hlo, hlotie⟩ := hlo v hv
  obtain ⟨hhi, hhitie⟩ := hhi.2 v hv
  rw [abs_sub_eq_abs_sub_iff] at hlotie hhitie ⊢
  rw [abs_sub_le_abs_sub_iff] at hlo hhi ⊢
  rcases le_total ((fpVal w : ℚ) : ℝ) ((fpVal v : ℚ) : ℝ) with hwv | hvw
  · exact ⟨by nlinarith, fun htie => hhitie (le_antisymm (by nlinarith) hhi)⟩
  · exact ⟨by nlinarith, fun htie => hlotie (le_antisymm (by nlinarith) hlo)⟩

theorem isNearest_of_fpVal_eq {w : Word} {r : ℝ} (hfinite : fpIsFinite w = true) (h : ((fpVal w : ℚ) : ℝ) = r) :
    IsNearestBinary32 r w := by
  refine ⟨hfinite, fun v _ => ?_⟩
  rw [h, sub_self, abs_zero]
  refine ⟨abs_nonneg _, fun htie hne => absurd ?_ hne⟩
  have hv : ((fpVal v : ℚ) : ℝ) = r := sub_eq_zero.1 (abs_eq_zero.1 htie.symm)
  exact_mod_cast hv.trans h.symm

theorem isNearest_roundMag {m : Nat} (h : fpIsFinite (fpPack false (roundMag m 0)) = true) :
    IsNearestBinary32 ((m : ℝ) / oneUnits) (fpPack false (roundMag m 0)) := by
  have hlt : roundMag m 0 < fpInfBits := by
    refine lt_of_le_of_ne (roundMag_le m 0) fun heq => ?_
    rw [heq] at h
    exact absurd h (by decide)
  have hval : (((signedMag false m : ℚ) / 2 ^ (149 + 0) : ℚ) : ℝ) = (m : ℝ) / oneUnits := by
    simp [signedMag, oneUnits]
  rw [← hval]
  exact isNearest_fpPack_roundMag false hlt

/-- The magnitude `m` lies in the binade whose words are `2^(s+1)` units apart, farther than `gap` from both its ends
and from every midpoint between two of its words. -/
def farFromMidpoint (gap s m : Nat) : Bool :=
  decide (2 ^ (s + 24) + gap ≤ m ∧ m + gap < 2 ^ (s + 25) ∧ gap < (m + 2 ^ s) % 2 ^ (s + 1) ∧
    (m + 2 ^ s) % 2 ^ (s + 1) + gap < 2 ^ (s + 1))

theorem roundingShift_of_binade {m s : Nat} (hlow : 2 ^ (s + 24) ≤ m) (hhigh : m < 2 ^ (s + 25)) :
    roundingShift m 0 = s + 1 := by
  have hm : m ≠ 0 := (Nat.lt_of_lt_of_le (by positivity) hlow).ne'
  have hlog : m.log2 = s + 24 := (Nat.log2_eq_iff hm).2 ⟨hlow, hhigh⟩
  rw [roundingShift, hlog]
  omega

/-- Where there is no tie, rounding adds half a step and rounds down. -/
theorem roundShift_of_no_tie {m s : Nat} (h : (m + 2 ^ s) % 2 ^ (s + 1) ≠ 0) :
    roundShift m (s + 1) = (m + 2 ^ s) / 2 ^ (s + 1) := by
  have hcases := roundShift_cases m (s + 1)
  have hm := Nat.div_add_mod m (2 ^ (s + 1))
  have hr := Nat.mod_lt m (show 0 < 2 ^ (s + 1) by positivity)
  have hstep : 2 ^ (s + 1) = 2 * 2 ^ s := by ring
  generalize m / 2 ^ (s + 1) = q at *
  generalize m % 2 ^ (s + 1) = r at *
  have hr' : r ≠ 2 ^ s := by
    rintro rfl
    refine h ?_
    rw [← hm, add_assoc, ← two_mul, ← hstep, ← Nat.mul_succ, Nat.mul_mod_right]
  obtain ⟨heq, hle, -⟩ | ⟨heq, hle, -⟩ := hcases
  · rw [heq, ← hm, add_assoc, Nat.mul_add_div (by positivity), Nat.div_eq_of_lt (by omega), add_zero]
  · rw [heq, ← hm, add_assoc, Nat.mul_add_div (by positivity), Nat.div_eq_of_lt_le (k := 1) (by omega) (by omega)]

/-- Everything within the gap rounds alike. -/
theorem roundMag_eq_of_near {gap s m m' : Nat} (h : farFromMidpoint gap s m = true) (hle : m ≤ m' + gap)
    (hge : m' ≤ m + gap) : roundMag m' 0 = roundMag m 0 := by
  obtain ⟨hlow, hhigh, hgap, hgap'⟩ := of_decide_eq_true h
  have hm := Nat.div_add_mod (m + 2 ^ s) (2 ^ (s + 1))
  obtain ⟨hdiv, hmod⟩ := (Nat.div_mod_unique (a := m' + 2 ^ s) (b := 2 ^ (s + 1))
    (c := (m + 2 ^ s) % 2 ^ (s + 1) + m' - m) (d := (m + 2 ^ s) / 2 ^ (s + 1)) (by positivity)).2
    ⟨by omega, by omega⟩
  rw [roundMag, roundMag, roundingShift_of_binade (s := s) (by omega) (by omega),
    roundingShift_of_binade (s := s) (by omega) (by omega), roundShift_of_no_tie (by omega),
    roundShift_of_no_tie (by omega), hdiv]

/-- Correct rounding of a coefficient of the first half, from the distance of its units to the midpoints. -/
theorem hannWord_isNearest_of_far {N i s : Nat} (hi : 2 * i ≤ N)
    (hfar : farFromMidpoint (2 ^ 95) s (hannUnits N i) = true) :
    IsNearestBinary32 (exactHann N i) (hannWord N i) := by
  obtain ⟨hfinite, -⟩ := hannWord_finite N i
  have hgap : 2 ^ 95 ≤ hannUnits N i := (Nat.le_add_left _ _).trans (of_decide_eq_true hfar).1
  have hend : ∀ m', hannUnits N i ≤ m' + 2 ^ 95 → m' ≤ hannUnits N i + 2 ^ 95 →
      IsNearestBinary32 ((m' : ℝ) / oneUnits) (hannWord N i) := fun m' hle hge => by
    have hround := roundMag_eq_of_near hfar hle hge
    rw [hannWord, ← hround] at hfinite ⊢
    exact isNearest_roundMag hfinite
  have herror := abs_le.1 (hannUnits_error hi)
  refine isNearest_of_between (hend (hannUnits N i - 2 ^ 95) (by omega) (by omega))
    (hend (hannUnits N i + 2 ^ 95) (by omega) (by omega)) ?_ ?_
  · rw [div_le_iff₀ oneUnits_pos, Nat.cast_sub hgap]
    push_cast
    linarith [herror.2]
  · rw [le_div_iff₀ oneUnits_pos]
    push_cast
    linarith [herror.1]

/-! ## The coefficients of length 4096 -/

/-- The spacing of the words around `m`, as `farFromMidpoint` counts it: the greatest `s` below `bound` whose binade
begins at or below `m`. -/
def binadeOf (m : Nat) : Nat → Nat
  | 0 => 0
  | s + 1 => if 2 ^ (s + 24) ≤ m then s else binadeOf m s

/-- Coefficient `i` of length 4096 lies near no rounding midpoint. No general law says so of a cosine, so this is looked
up for the coefficients one by one: half a table, in two parts. -/
def coefficientIsFar (i : Nat) : Bool :=
  farFromMidpoint (2 ^ 95) (binadeOf (hannUnits 4096 i) 125) (hannUnits 4096 i)

theorem coefficients_far_first_quarter : ∀ i ∈ List.range' 1 1023, coefficientIsFar i = true :=
  List.all_eq_true.1 (by decide +kernel)

theorem coefficients_far_second_quarter : ∀ i ∈ List.range' 1025 1023, coefficientIsFar i = true :=
  List.all_eq_true.1 (by decide +kernel)

/-- The three coefficients of the first half that are words themselves (R60). -/
theorem hannWord_4096_exact :
    hannWord 4096 0 = 0x00000000 ∧ hannWord 4096 1024 = 0x3F000000 ∧ hannWord 4096 2048 = 0x3F800000 := by
  decide +kernel

theorem fpVal_exact : fpVal 0x00000000 = 0 ∧ fpVal 0x3F000000 = 1 / 2 ∧ fpVal 0x3F800000 = 1 := by
  decide +kernel

theorem exactHann_4096_exact :
    exactHann 4096 0 = 0 ∧ exactHann 4096 1024 = 1 / 2 ∧ exactHann 4096 2048 = 1 := by
  have hquarter : 2 * Real.pi * (((1024 : Nat) : ℝ) / ((4096 : Nat) : ℝ)) = Real.pi / 2 := by push_cast; ring
  have hhalf : 2 * Real.pi * (((2048 : Nat) : ℝ) / ((4096 : Nat) : ℝ)) = Real.pi := by push_cast; ring
  refine ⟨by simp [exactHann], ?_, ?_⟩
  · rw [exactHann, hquarter, Real.cos_pi_div_two]; norm_num
  · rw [exactHann, hhalf, Real.cos_pi]; norm_num

/-- Every coefficient of the first half is rounded correctly. -/
theorem hannWord_4096_isNearest {i : Nat} (hi : i ≤ 2048) :
    IsNearestBinary32 (exactHann 4096 i) (hannWord 4096 i) := by
  obtain ⟨hword0, hword1, hword2⟩ := hannWord_4096_exact
  obtain ⟨hval0, hval1, hval2⟩ := fpVal_exact
  obtain ⟨hexact0, hexact1, hexact2⟩ := exactHann_4096_exact
  by_cases hspecial : i = 0 ∨ i = 1024 ∨ i = 2048
  · refine isNearest_of_fpVal_eq (hannWord_finite 4096 i).1 ?_
    obtain rfl | rfl | rfl := hspecial
    · rw [hword0, hval0, hexact0, Rat.cast_zero]
    · rw [hword1, hval1, hexact1]; norm_num
    · rw [hword2, hval2, hexact2, Rat.cast_one]
  · have hfar : coefficientIsFar i = true := by
      rcases Nat.lt_or_ge i 1024 with hlt | hge
      · exact coefficients_far_first_quarter i (List.mem_range'_1.2 (by omega))
      · exact coefficients_far_second_quarter i (List.mem_range'_1.2 (by omega))
    exact hannWord_isNearest_of_far (by omega) hfar

/-! ## Every supported length -/

/-- The coefficients of a supported length are coefficients of length 4096. -/
theorem exists_scale {m : Nat} (hm : 4 ≤ m) (hm' : m ≤ 12) : ∃ c q, 0 < c ∧ 2 ^ m = 4 * q ∧ c * q = 1024 := by
  refine ⟨2 ^ (12 - m), 2 ^ (m - 2), by positivity, ?_, ?_⟩
  · rw [show 4 = 2 ^ 2 by rfl, ← pow_add]; congr 1; omega
  · rw [← pow_add, show 12 - m + (m - 2) = 10 by omega]; rfl

/-- Correct rounding at every supported length (R59). -/
theorem hannWord_isNearest {m i : Nat} (hm : 4 ≤ m) (hm' : m ≤ 12) (hi : i ≤ 2 ^ m) :
    IsNearestBinary32 (exactHann (2 ^ m) i) (hannWord (2 ^ m) i) := by
  obtain ⟨c, q, hc, hpow, hcq⟩ := exists_scale hm hm'
  have hlen : c * 2 ^ m = 4096 := by rw [hpow]; linear_combination 4 * hcq
  have hci : c * i ≤ 4096 := hlen ▸ Nat.mul_le_mul_left c hi
  rw [← hannWord_scale (2 ^ m) i hc, ← exactHann_scale (2 ^ m) i hc, hlen]
  rcases Nat.le_total (c * i) 2048 with hfirst | hsecond
  · exact hannWord_4096_isNearest hfirst
  · rw [← hannWord_reflect hci, ← exactHann_reflect (by omega) hci]
    exact hannWord_4096_isNearest (by omega)

/-- Settles O27: every coefficient of a supported length is one of length 4096, up to a mirror image. -/
theorem windowCoefficientsAreCorrectlyRounded : Obligations.WindowCoefficientsAreCorrectlyRounded :=
  fun _ _ hm hm' hi => ⟨rfl, hannWord_isNearest hm hm' hi.le⟩

/-- The end, half and quarter points (R60). -/
theorem hannWord_points {m : Nat} (hm : 4 ≤ m) (hm' : m ≤ 12) :
    hannWord (2 ^ m) 0 = 0x00000000 ∧ hannWord (2 ^ m) (2 ^ m / 2) = 0x3F800000 ∧
    hannWord (2 ^ m) (2 ^ m / 4) = 0x3F000000 := by
  obtain ⟨c, q, hc, hpow, hcq⟩ := exists_scale hm hm'
  have hlen : c * (4 * q) = 4096 := by linear_combination 4 * hcq
  have hhalf : 4 * q / 2 = 2 * q := by omega
  have hquarter : 4 * q / 4 = q := by omega
  rw [hpow, hhalf, hquarter, ← hannWord_scale _ 0 hc, ← hannWord_scale _ (2 * q) hc, ← hannWord_scale _ q hc, hlen,
    mul_left_comm c 2, hcq]
  obtain ⟨hzero, hquarter', hhalf'⟩ := hannWord_4096_exact
  exact ⟨hzero, hhalf', hquarter'⟩

theorem fpVal_hannWord_nonneg (N i : Nat) : 0 ≤ fpVal (hannWord N i) := by
  obtain ⟨-, hsign⟩ := hannWord_finite N i
  rw [fpVal, fpUnits, hsign]
  exact div_nonneg (Int.cast_nonneg (Int.natCast_nonneg _)) (by positivity)

/-- The word nearest to a real that is at most 1 is at most 1, because 1 is a word. -/
theorem fpVal_le_one_of_isNearest {r : ℝ} {w : Word} (h : IsNearestBinary32 r w) (hr : r ≤ 1) : fpVal w ≤ 1 := by
  obtain ⟨-, hle⟩ := h
  obtain ⟨hone, -⟩ := hle 0x3F800000 (by decide)
  obtain ⟨-, -, hval⟩ := fpVal_exact
  rw [hval, Rat.cast_one, abs_of_nonneg (by linarith : (0 : ℝ) ≤ 1 - r)] at hone
  exact_mod_cast (by linarith [(abs_le.1 hone).2] : ((fpVal w : ℚ) : ℝ) ≤ 1)

theorem exactHann_le_one (N i : Nat) : exactHann N i ≤ 1 := by
  unfold exactHann
  linarith [Real.neg_one_le_cos (2 * Real.pi * ((i : ℝ) / (N : ℝ)))]

/-- Settles O28: the points by scaling, the symmetry by the nearer end, the range by correct rounding. -/
theorem hannTableHasItsProperties : Obligations.HannTableHasItsProperties := by
  intro m hm hm'
  obtain ⟨hend, hhalf, hquarter⟩ := hannWord_points hm hm'
  have hreflect {i : Nat} (hi : i ≤ 2 ^ m) := hannWord_reflect hi
  have hthree : 2 ^ m - 3 * 2 ^ m / 4 = 2 ^ m / 4 := by
    obtain ⟨c, q, -, hpow, -⟩ := exists_scale hm hm'
    omega
  refine ⟨hend, hhalf, hquarter, ?threeQuarters, ?period, fun i _ hi => ⟨(hreflect hi.le).symm, ?_, ?_, ?_⟩⟩
  case threeQuarters =>
    have h := hreflect (i := 3 * 2 ^ m / 4) (by omega)
    rw [hthree] at h
    exact h.symm.trans hquarter
  case period =>
    have h := hreflect (Nat.zero_le _)
    rwa [Nat.sub_zero] at h
  · exact (hannWord_finite _ i).1
  · exact fpVal_hannWord_nonneg _ i
  · exact fpVal_le_one_of_isNearest (hannWord_isNearest hm hm' hi.le) (exactHann_le_one _ i)

end Sys2Proof.Proofs.HannTable

/-! SUPPORT and PROOFS of the family 41_analyzer: what ANALYZE does on each of its paths, and the ring that a run of
active ANALYZE commands builds up (spec/41_analyzer.md R72, R73). -/

namespace Sys2Proof.Proofs.Analyzer

open Sys2Proof.Machine Sys2Proof.Claims Sys2Proof.Proofs.CoreState Sys2Proof.Proofs.Transform

/-! ## The paths of ANALYZE (R72) -/

theorem exec_analyze_of_hook {s : State} (hphase : s.phase = .hook) :
    exec .analyze s = .next { s with err := .sequence } := by
  simp [exec, execAnalyze, hphase, raiseError, record]

theorem exec_analyze_of_not_active {s : State} (hphase : s.phase = .idle) (hactive : s.active = false) :
    exec .analyze s = .next { s with
      outBuf := s.inBuf, outValid := true, drop := false
      err := if s.configured then s.err else .notConfigured } := by
  simp [exec, execAnalyze, hphase, analyzeBody_of_not_active hactive]

theorem active_eq_false {s : State} (h : s.configured = false ∨ s.enable = false) : s.active = false := by
  rw [State.active, Bool.and_eq_false_iff]
  exact h

theorem active_eq_true {s : State} (hconf : s.configured = true) (hen : s.enable = true) : s.active = true := by
  rw [State.active, hconf, hen, Bool.and_self]

/-! ## The ring and the spectrum of an active ANALYZE, word by word -/

/-- Steps 3 and 4 and the closing assignments leave the ring as steps 1 and 2 made it. -/
theorem openCycle_histWord (s : State) (n : Nat) : (openCycle s).histWord n = (shiftHist s).histWord n := by
  simp [State.histWord, openCycle]

theorem openCycle_histWord_older {s : State} (hle : s.blockLen ≤ s.transformLen) {n : Nat}
    (hn : n < s.transformLen - s.blockLen) : (openCycle s).histWord n = s.histWord (n + s.blockLen) := by
  rw [openCycle_histWord, shiftHist_histWord s hle, if_pos hn]

theorem openCycle_histWord_newest {s : State} (hle : s.blockLen ≤ s.transformLen) {j : Nat} (hj : j < s.blockLen) :
    (openCycle s).histWord (s.transformLen - s.blockLen + j) = s.inWord j := by
  rw [openCycle_histWord, shiftHist_histWord s hle, if_neg (by omega), if_pos (by omega), Nat.add_sub_cancel_left]

/-- The transform of length N reads 2N words only. -/
theorem forwardWord_congr (kind : WinKind) {N : Nat} {f g : Nat → Word} (h : ∀ q < 2 * N, f q = g q) (p : Nat) :
    forwardWord kind N f p = forwardWord kind N g p := by
  have hlist : (wordList N fun q => windowed kind N q (f q)) = wordList N fun q => windowed kind N q (g q) :=
    List.map_congr_left fun q hq => by rw [h q (List.mem_range.1 hq)]
  rw [forwardWord, hlist, forwardWord]

/-- The spectrum is that of the new ring, with an imaginary channel of zeros. -/
theorem openCycle_specWord (s : State) {p : Nat} (hp : p < 2 * s.transformLen) :
    (openCycle s).specWord p =
      forwardWord s.fwdKind s.transformLen
        (fun q => if q % 2 = 0 then (openCycle s).histWord (q / 2) else 0x00000000) p := by
  have hfft := transformFwd_eq_forwardWord (frameHist (shiftHist s)) (p := p) (by simpa using hp)
  simp only [frameHist_fwdKind, shiftHist_fwdKind, frameHist_transformLen, shiftHist_transformLen] at hfft
  refine hfft.trans (forwardWord_congr _ (fun q hq => ?_) p)
  rw [frameHist_specWord, if_pos (by simpa using hq), openCycle_histWord]
  rfl

/-- Settles O35: the three paths, each by its equation and the words of the buffers it writes. -/
theorem analyzeFollowsItsRule : Obligations.AnalyzeFollowsItsRule := by
  refine ⟨rfl, fun s hinv =>
    ⟨exec_analyze_of_hook, fun hphase hinactive => ?passes, fun hphase hconf hen => ?consumes⟩⟩
  case passes =>
    exact ⟨_, exec_analyze_of_not_active hphase (active_eq_false hinactive), rfl, fun n _ => rfl⟩
  case consumes =>
    obtain ⟨hconfig, -⟩ := hinv
    obtain ⟨hle, -⟩ := sizes_of_configOk hconfig
    obtain ⟨hspec, hhist, -⟩ := openCycle_keepsBeyond hle
    exact ⟨openCycle s, exec_analyze_of_active hphase (active_eq_true hconf hen), openCycle_eq s,
      fun n => openCycle_histWord_older hle, fun j => openCycle_histWord_newest hle, fun p => openCycle_specWord s,
      hhist, hspec⟩

/-! ## The ring over a run of active ANALYZE commands (R73) -/

/-- Place `n` of a ring of `N` words after `t` blocks of `B` samples: the sample numbered `t * B + n - N` of the
concatenated blocks, zero before the first. -/
def ringAfter (N B : Nat) (block : Nat → Nat → Word) (t n : Nat) : Word :=
  if N ≤ t * B + n then block ((t * B + n - N) / B) ((t * B + n - N) % B) else 0

theorem ringAfter_zero {N n : Nat} (B : Nat) (block : Nat → Nat → Word) (hn : n < N) :
    ringAfter N B block 0 n = 0 :=
  if_neg (by omega)

/-- One more block moves every sample down by `B` places. -/
theorem ringAfter_succ_older (N B : Nat) (block : Nat → Nat → Word) (t n : Nat) :
    ringAfter N B block (t + 1) n = ringAfter N B block t (n + B) := by
  have hnumber : (t + 1) * B + n = t * B + (n + B) := by ring
  rw [ringAfter, hnumber, ringAfter]

/-- The last `B` places hold the latest block. -/
theorem ringAfter_succ_newest {N B j : Nat} (block : Nat → Nat → Word) (t : Nat) (hle : B ≤ N) (hj : j < B) :
    ringAfter N B block (t + 1) (N - B + j) = block t j := by
  have hend : (t + 1) * B + (N - B + j) = N + (B * t + j) := by
    rw [Nat.add_mul, Nat.mul_comm t B]
    omega
  rw [ringAfter, hend, if_pos (Nat.le_add_right _ _), Nat.add_sub_cancel_left, Nat.mul_add_div (by omega),
    Nat.div_eq_of_lt hj, Nat.mul_add_mod, Nat.mod_eq_of_lt hj, Nat.add_zero]

/-- An active ANALYZE takes the ring of `t` blocks to the ring of `t + 1`. -/
theorem openCycle_histWord_eq_ringAfter {s : State} {block : Nat → Nat → Word} {t : Nat}
    (hle : s.blockLen ≤ s.transformLen) (hin : ∀ j, s.inWord j = block t j)
    (hring : ∀ n < s.transformLen, s.histWord n = ringAfter s.transformLen s.blockLen block t n) :
    ∀ n < s.transformLen, (openCycle s).histWord n = ringAfter s.transformLen s.blockLen block (t + 1) n := by
  intro n hn
  by_cases holder : n < s.transformLen - s.blockLen
  · rw [openCycle_histWord_older hle holder, hring _ (by omega), ringAfter_succ_older]
  · obtain ⟨j, rfl⟩ := Nat.exists_eq_add_of_le (not_lt.1 holder)
    have hj : j < s.blockLen := by omega
    rw [openCycle_histWord_newest hle hj, hin, ringAfter_succ_newest block t hle hj]

/-- Settles O37, by induction on the number of the command: each finds the ring of the blocks before it. -/
theorem ringHoldsTheLatestSamples : Obligations.RingHoldsTheLatestSamples := by
  intro N B s u T hrun hcarry hzero t
  have hstep : ∀ t < T, (∀ n < N, (s t).histWord n = ringAfter N B (fun i => (s i).inWord) t n) →
      ∀ n < N, (u t).histWord n = ringAfter N B (fun i => (s i).inWord) (t + 1) n := by
    intro t ht hring
    obtain ⟨hphase, hconf, hen, hsize, rfl, rfl, hexec⟩ := hrun t ht
    obtain ⟨-, -, -, -, hle, -⟩ := sizes_of_validSize hsize
    rw [exec_analyze_of_active hphase (active_eq_true hconf hen), Host.Outcome.next.injEq] at hexec
    rw [← hexec]
    exact openCycle_histWord_eq_ringAfter hle (fun _ => rfl) hring
  induction t with
  | zero => exact fun ht => hstep 0 ht fun n hn => (hzero n hn).trans (ringAfter_zero B _ hn).symm
  | succ t ih =>
    exact fun ht => hstep (t + 1) ht fun n hn => by
      rw [State.histWord, hcarry t ht]
      exact ih (by omega) n hn

end Sys2Proof.Proofs.Analyzer

/-! SUPPORT and PROOFS of the family 42_reconstruction: REBUILD makes the upper bins the conjugates of the lower ones,
and what stood above bin N/2 before it does not reach a SYNTHESIZE (spec/42_reconstruction.md R76, R77, R80). -/

namespace Sys2Proof.Proofs.Reconstruction

open Sys2Proof.Machine Sys2Proof.Claims Sys2Proof.Proofs.CoreState Sys2Proof.Proofs.Transform

/-! ## The words after the enforcer (R76) -/

/-- Bins 0 to N/2 and the words beyond 2N are not written. -/
theorem rebuilt_of_not_upper {N p : Nat} (f : Nat → Word) (h : ¬ (N / 2 < p / 2 ∧ p / 2 < N)) :
    rebuilt N f p = f p := by
  rw [rebuilt, if_neg h]

theorem rebuilt_of_lower {N p : Nat} (f : Nat → Word) (h : p < 2 * (N / 2 + 1)) : rebuilt N f p = f p :=
  rebuilt_of_not_upper f (by omega)

/-- An upper bin is read off its mirror image, which lies in bins 1 to N/2. -/
theorem rebuilt_congr_upper {N p : Nat} {f g : Nat → Word} (h : ∀ q < 2 * (N / 2 + 1), f q = g q)
    (hp : N / 2 < p / 2 ∧ p / 2 < N) : rebuilt N f p = rebuilt N g p := by
  rw [rebuilt, rebuilt, if_pos hp, if_pos hp, h _ (by omega), h _ (by omega)]

/-- The first 2N words depend on bins 0 to N/2 only. -/
theorem rebuilt_congr {N p : Nat} {f g : Nat → Word} (h : ∀ q < 2 * (N / 2 + 1), f q = g q) (hp : p < 2 * N) :
    rebuilt N f p = rebuilt N g p := by
  by_cases hupper : N / 2 < p / 2 ∧ p / 2 < N
  · exact rebuilt_congr_upper h hupper
  · rw [rebuilt_of_not_upper f hupper, rebuilt_of_not_upper g hupper, h p (by omega)]

theorem rebuilt_rebuilt (N : Nat) (f : Nat → Word) (p : Nat) : rebuilt N (rebuilt N f) p = rebuilt N f p := by
  by_cases hupper : N / 2 < p / 2 ∧ p / 2 < N
  · exact rebuilt_congr_upper (fun _ => rebuilt_of_lower f) hupper
  · exact rebuilt_of_not_upper _ hupper

theorem rebuilt_mirror_re {N k : Nat} (f : Nat → Word) (h1 : 1 ≤ k) (hk : k < N / 2) :
    rebuilt N f (2 * (N - k)) = f (2 * k) := by
  have hbin : 2 * (N - k) / 2 = N - k := by omega
  rw [rebuilt, hbin, if_pos (by omega), if_pos (by omega), Nat.sub_sub_self (by omega)]

theorem rebuilt_mirror_im {N k : Nat} (f : Nat → Word) (h1 : 1 ≤ k) (hk : k < N / 2) :
    rebuilt N f (2 * (N - k) + 1) = f (2 * k + 1) ^^^ 0x80000000 := by
  have hbin : (2 * (N - k) + 1) / 2 = N - k := by omega
  rw [rebuilt, hbin, if_pos (by omega), if_neg (by omega), Nat.sub_sub_self (by omega)]

/-! ## REBUILD (R77) -/

/-- Every length that CONFIGURE can leave is even (R84). -/
theorem transformLen_even {s : State} (h : s.configOk) (hconf : s.configured = true) : s.transformLen % 2 = 0 := by
  obtain ⟨-, -, heven, -⟩ := sizes_of_validSize (configOk_validSize h hconf)
  exact heven

theorem exec_rebuild (s : State) :
    exec .rebuild s = if s.configured then .next (rebuildSpec s) else .next { s with err := .notConfigured } :=
  rfl

theorem exec_rebuild_of_configured {s : State} (hconf : s.configured = true) :
    exec .rebuild s = .next (rebuildSpec s) := by rw [exec_rebuild, if_pos hconf]

theorem rebuildSpec_eq_rebuilt {s : State} (heven : s.transformLen % 2 = 0) (p : Nat) :
    (rebuildSpec s).specWord p = rebuilt s.transformLen s.specWord p :=
  rebuildSpec_specWord s heven p

/-- Only the bytes of bins N/2+1 to N-1 are written. -/
theorem rebuildSpec_sameBytesOutside {s : State} (heven : s.transformLen % 2 = 0) :
    SameBytesOutside s.specBuf (rebuildSpec s).specBuf (8 * (s.transformLen / 2 + 1)) (8 * s.transformLen) :=
  fun a ha => Memory.getByte_writeWords_of_not_mem _ _ _ (by rw [length_conjugateWords]; omega)

theorem rebuildSpec_rebuildSpec {s : State} (heven : s.transformLen % 2 = 0) (hwf : s.specBuf.wf) :
    rebuildSpec (rebuildSpec s) = rebuildSpec s := by
  have hbuf : (rebuildSpec (rebuildSpec s)).specBuf = (rebuildSpec s).specBuf := by
    have hwf' : (rebuildSpec s).specBuf.wf := Memory.writeWords_wf hwf _ _
    refine Memory.eq_of_getWord (Memory.writeWords_wf hwf' _ _) hwf' fun p => ?_
    calc (rebuildSpec (rebuildSpec s)).specWord p
      _ = rebuilt s.transformLen (rebuildSpec s).specWord p := by
        rw [rebuildSpec_eq_rebuilt (by simpa using heven), rebuildSpec_transformLen]
      _ = rebuilt s.transformLen (rebuilt s.transformLen s.specWord) p := by
        rw [funext (rebuildSpec_eq_rebuilt heven)]
      _ = (rebuildSpec s).specWord p := by rw [rebuilt_rebuilt, rebuildSpec_eq_rebuilt heven]
  rw [rebuildSpec_eq (rebuildSpec s), hbuf]

/-- Settles O33: the words of the enforcer, its frame, and its idempotence. -/
theorem rebuildFollowsItsRule : Obligations.RebuildFollowsItsRule := by
  refine ⟨rfl, fun s hinv => ⟨fun hconf => ?unconfigured, fun hconf => ?configured⟩⟩
  case unconfigured => simp [exec_rebuild, hconf]
  case configured =>
    obtain ⟨hconfig, -, -, ⟨hwf, -⟩, -⟩ := hinv
    have heven := transformLen_even hconfig hconf
    refine ⟨_, exec_rebuild_of_configured hconf, rebuildSpec_eq s, fun k h1 hk => ?bins,
      rebuildSpec_sameBytesOutside heven, ?again⟩
    case bins =>
      simp only [rebuildSpec_eq_rebuilt heven]
      exact ⟨rebuilt_mirror_re _ h1 hk, rebuilt_mirror_im _ h1 hk, rebuilt_of_lower _ (by omega),
        rebuilt_of_lower _ (by omega)⟩
    case again =>
      rw [exec_rebuild_of_configured (by simpa using hconf), rebuildSpec_rebuildSpec heven hwf]

/-! ## What a SYNTHESIZE reads of SPEC (R80) -/

/-- A host write of a word of SPEC, accepted on an idle core (R42). -/
theorem step_write_specWord {s : State} {i : Nat} {v : Word} {rest : List Event} (hi : i < 8192)
    (hbusy : s.busy = false) (hreset : s.inReset = false)
    (h : s.agenda = .host (.write (Config.base + 0x10000 + 4 * i) 4 v) :: rest) :
    step s = .next { s with agenda := rest, response := .written, specBuf := s.specBuf.setWord i v } := by
  rw [Nat.add_assoc] at h
  rw [step_write h hreset hbusy (by omega) (by omega), locate_specWord]
  rfl

/-- The transform of length N reads 2N words only. -/
theorem inverseWord_congr (kind : WinKind) {N : Nat} {f g : Nat → Word} (h : ∀ q < 2 * N, f q = g q) (p : Nat) :
    inverseWord kind N f p = inverseWord kind N g p := by
  have hlist : wordList N f = wordList N g := List.map_congr_left fun q hq => h q (List.mem_range.1 hq)
  rw [inverseWord, hlist, inverseWord]

/-- Steps 1 and 2 of SYNTHESIZE, word by word (R81). -/
theorem transformInv_rebuildSpec_specWord {s : State} (heven : s.transformLen % 2 = 0) {p : Nat}
    (hp : p < 2 * s.transformLen) :
    (transformInv (rebuildSpec s)).specWord p =
      inverseWord s.invKind s.transformLen (rebuilt s.transformLen s.specWord) p := by
  rw [transformInv_eq_inverseWord _ (by simpa using hp), rebuildSpec_invKind, rebuildSpec_transformLen,
    funext (rebuildSpec_eq_rebuilt heven)]

/-- Steps 3 to 5 leave SPEC as steps 1 and 2 made it. -/
theorem synthesizeBody_specWord (s : State) (p : Nat) :
    (synthesizeBody s).specWord p = (transformInv (rebuildSpec s)).specWord p := by
  rw [State.specWord, synthesizeBody_eq, State.specWord]

section OtherSpectrum

variable {s : State} {m : Memory}

/-- Steps 1 and 2 read bins 0 to N/2 of SPEC only. -/
theorem transformInv_rebuildSpec_congr (heven : s.transformLen % 2 = 0)
    (h : ∀ p < 2 * (s.transformLen / 2 + 1), m.getWord p = s.specWord p) {p : Nat} (hp : p < 2 * s.transformLen) :
    (transformInv (rebuildSpec { s with specBuf := m })).specWord p = (transformInv (rebuildSpec s)).specWord p := by
  rw [transformInv_rebuildSpec_specWord heven hp]
  exact (transformInv_rebuildSpec_specWord (s := { s with specBuf := m }) heven hp).trans
    (inverseWord_congr _ (fun _ hq => rebuilt_congr h hq) p)

/-- Step 3 reads the first 2N words of SPEC and writes none. -/
theorem overlapAdd_withSpec (h : ∀ p < 2 * s.transformLen, m.getWord p = s.specWord p) :
    overlapAdd { s with specBuf := m } = { overlapAdd s with specBuf := m } := by
  have hsums : ((List.range s.transformLen).map fun n => fadd32 (s.accWord n) (m.getWord (2 * n))) =
      (List.range s.transformLen).map fun n => fadd32 (s.accWord n) (s.specWord (2 * n)) :=
    List.map_congr_left fun n hn => by
      have hlt := List.mem_range.1 hn
      rw [h _ (by omega)]
  exact congrArg (fun ws => { writeAcc 0 ws s with specBuf := m }) hsums

/-- Step 4 does not look at SPEC. -/
theorem emit_withSpec (s : State) (m : Memory) : emit { s with specBuf := m } = { emit s with specBuf := m } := by
  simp only [emit]
  split <;> rfl

/-- Nor does step 5. -/
theorem rotateAcc_withSpec (s : State) (m : Memory) :
    rotateAcc { s with specBuf := m } = { rotateAcc s with specBuf := m } := rfl

/-- Everything but SPEC after a SYNTHESIZE depends on bins 0 to N/2 of SPEC only. -/
theorem synthesizeBody_withSpec (heven : s.transformLen % 2 = 0)
    (h : ∀ p < 2 * (s.transformLen / 2 + 1), m.getWord p = s.specWord p) :
    synthesizeBody { s with specBuf := m } =
      { synthesizeBody s with specBuf := (synthesizeBody { s with specBuf := m }).specBuf } := by
  have hinverse : transformInv (rebuildSpec { s with specBuf := m }) =
      { transformInv (rebuildSpec s) with
        specBuf := (transformInv (rebuildSpec { s with specBuf := m })).specBuf } := rfl
  have hwords : ∀ p < 2 * (transformInv (rebuildSpec s)).transformLen,
      (transformInv (rebuildSpec { s with specBuf := m })).specBuf.getWord p =
        (transformInv (rebuildSpec s)).specWord p :=
    fun p hp => transformInv_rebuildSpec_congr heven h (by simpa using hp)
  rw [synthesizeBody, hinverse, overlapAdd_withSpec hwords, emit_withSpec, rotateAcc_withSpec, synthesizeBody]

end OtherSpectrum

/-- Settles O34: an accepted write, and a SYNTHESIZE that reads bins 0 to N/2 only. -/
theorem writesAboveNyquistAreHarmless : Obligations.WritesAboveNyquistAreHarmless := by
  refine ⟨fun s i v rest hi _ hbusy hreset hagenda => step_write_specWord hi hbusy hreset hagenda,
    fun s s' hinv hphase hother hlower => ?_⟩
  obtain ⟨hconfig, hopen, -⟩ := hinv
  obtain ⟨hconf, -⟩ := hopen hphase
  have heven := transformLen_even hconfig hconf
  generalize s'.specBuf = m at hother
  subst hother
  refine ⟨_, _, exec_synthesize_of_hook hphase, exec_synthesize_of_hook hphase, ?state, fun p hp => ?words⟩
  case state => exact synthesizeBody_withSpec heven hlower
  case words =>
    rw [synthesizeBody_specWord, synthesizeBody_specWord]
    exact transformInv_rebuildSpec_congr heven hlower hp

end Sys2Proof.Proofs.Reconstruction

/-! SUPPORT and PROOFS of the family 43_synthesizer: what SYNTHESIZE writes, word by word, and the overlap sum that a run
of SYNTHESIZE commands delivers (spec/43_synthesizer.md R81 to R83). -/

namespace Sys2Proof.Proofs.Synthesizer

open Sys2Proof.Machine Sys2Proof.Claims Sys2Proof.Proofs.CoreState Sys2Proof.Proofs.Reconstruction

/-! ## The words a SYNTHESIZE writes (R81, R82) -/

theorem exec_synthesize_of_idle {s : State} (hphase : s.phase = .idle) :
    exec .synthesize s = .next { s with err := .sequence } := by
  simp [exec, execSynthesize, hphase, raiseError, record]

section Words

variable {s : State}

/-- Steps 1 to 3: each word of the ring takes its sample of the inverse transform. -/
theorem overlapAdd_synthesisSample (heven : s.transformLen % 2 = 0) {n : Nat} (hn : n < s.transformLen) :
    (overlapAdd (transformInv (rebuildSpec s))).accWord n = fadd32 (s.accWord n) (synthesisSample s n) := by
  have hring : (transformInv (rebuildSpec s)).accWord n = s.accWord n := by simp [State.accWord]
  rw [overlapAdd_accWord, if_pos (by simpa using hn), hring,
    transformInv_rebuildSpec_specWord heven (by omega), synthesisSample]

theorem synthesizeBody_accBuf (s : State) :
    (synthesizeBody s).accBuf = (rotateAcc (emit (overlapAdd (transformInv (rebuildSpec s))))).accBuf := rfl

/-- Step 5 works on the ring of step 3, since the emission between them only reads it. -/
theorem synthesizeBody_accWord (hle : s.blockLen ≤ s.transformLen) (n : Nat) :
    (synthesizeBody s).accWord n =
      if n < s.transformLen - s.blockLen then
        (overlapAdd (transformInv (rebuildSpec s))).accWord (n + s.blockLen)
      else if n < s.transformLen then 0
      else (overlapAdd (transformInv (rebuildSpec s))).accWord n := by
  rw [State.accWord, synthesizeBody_accBuf, ← State.accWord, rotateAcc_accWord _ (by simpa using hle)]
  simp only [emit_accWord, emit_transformLen, emit_blockLen, overlapAdd_transformLen, overlapAdd_blockLen,
    transformInv_transformLen, transformInv_blockLen, rebuildSpec_transformLen, rebuildSpec_blockLen]

theorem synthesizeBody_accWord_older (heven : s.transformLen % 2 = 0) (hle : s.blockLen ≤ s.transformLen) {n : Nat}
    (hn : n < s.transformLen - s.blockLen) :
    (synthesizeBody s).accWord n = fadd32 (s.accWord (n + s.blockLen)) (synthesisSample s (n + s.blockLen)) := by
  rw [synthesizeBody_accWord hle, if_pos hn, overlapAdd_synthesisSample heven (by omega)]

theorem synthesizeBody_accWord_newest (hle : s.blockLen ≤ s.transformLen) {n : Nat}
    (hlow : s.transformLen - s.blockLen ≤ n) (hn : n < s.transformLen) : (synthesizeBody s).accWord n = 0 := by
  rw [synthesizeBody_accWord hle, if_neg (by omega), if_pos hn]

/-- OUT is written by step 4 only. -/
theorem synthesizeBody_outBuf (s : State) :
    (synthesizeBody s).outBuf =
      if s.outAllocOk then (deliver (overlapAdd (transformInv (rebuildSpec s)))).outBuf else s.outBuf := by
  calc (synthesizeBody s).outBuf
    _ = (emit (overlapAdd (transformInv (rebuildSpec s)))).outBuf := rotateAcc_outBuf _
    _ = _ := by rw [emit_outBuf]; simp

theorem synthesizeBody_outWord_delivered (heven : s.transformLen % 2 = 0) (hle : s.blockLen ≤ s.transformLen)
    (hok : s.outAllocOk = true) {j : Nat} (hj : j < s.blockLen) :
    (synthesizeBody s).outWord j = fadd32 (s.accWord j) (synthesisSample s j) := by
  rw [State.outWord, synthesizeBody_outBuf, if_pos hok, ← State.outWord, deliver_outWord, if_pos (by simpa using hj),
    overlapAdd_synthesisSample heven (by omega)]

theorem synthesizeBody_outBuf_dropped (hok : s.outAllocOk = false) : (synthesizeBody s).outBuf = s.outBuf := by
  rw [synthesizeBody_outBuf, if_neg (by simp [hok])]

/-- Delivered or dropped, OUT is kept beyond the block. -/
theorem synthesizeBody_outBuf_keepsBeyond (s : State) :
    SameBytesOutside s.outBuf (synthesizeBody s).outBuf 0 (4 * s.blockLen) := by
  rw [synthesizeBody_outBuf]
  split
  · simpa using sameBytesOutside_writeWords s.outBuf
      (ws := (overlapAdd (transformInv (rebuildSpec s))).accBuf.readWords 0 s.blockLen) (.inr (by simp))
  · exact fun _ _ => rfl

/-- What a SYNTHESIZE changes besides the words of SPEC, acc and OUT. -/
theorem synthesizeBody_registers (s : State) :
    synthesizeBody s = { s with
      specBuf := (synthesizeBody s).specBuf, accBuf := (synthesizeBody s).accBuf
      outBuf := (synthesizeBody s).outBuf, phase := .idle
      outValid := s.outAllocOk, drop := !s.outAllocOk
      dropCount := if s.outAllocOk then s.dropCount else s.dropCount + 1
      err := if s.outAllocOk then s.err else .allocationFailure } := by
  have hspec : (synthesizeBody s).specBuf = (transformInv (rebuildSpec s)).specBuf := by rw [synthesizeBody_eq]
  rw [← synthesizeBody_dropCount, ← synthesizeBody_err, hspec]
  exact synthesizeBody_eq s

end Words

/-- Settles O38: the refusal while idle, and in the hook window the five steps word by word with their frames. -/
theorem synthesizeFollowsItsRule : Obligations.SynthesizeFollowsItsRule := by
  refine ⟨rfl, fun s => exec_synthesize_of_idle, fun s hinv hphase => ?_⟩
  obtain ⟨hconfig, hopen, -⟩ := hinv
  obtain ⟨hconf, -⟩ := hopen hphase
  have heven := transformLen_even hconfig hconf
  obtain ⟨hle, -⟩ := sizes_of_configOk hconfig
  obtain ⟨hspec, -, hacc⟩ := synthesizeBody_keepsBeyond hle
  refine ⟨synthesizeBody s, exec_synthesize_of_hook hphase, synthesizeBody_registers s, fun p hp => ?spectrum,
    fun n => synthesizeBody_accWord_older heven hle, fun n => synthesizeBody_accWord_newest hle,
    fun hok j => synthesizeBody_outWord_delivered heven hle hok, synthesizeBody_outBuf_dropped, hspec, hacc,
    synthesizeBody_outBuf_keepsBeyond s⟩
  case spectrum => rw [synthesizeBody_specWord, transformInv_rebuildSpec_specWord heven hp]

/-! ## The overlap sum over a run of SYNTHESIZE commands (R83) -/

/-- The binary32 sum, oldest first, of the samples that frames `t - M` to `t` have at place `n` of frame `t`: each frame
before `t` lies one block of `B` samples further on. -/
def overlapSum (B : Nat) (frame : Nat → Nat → Word) (t M n : Nat) : Word :=
  (List.range (M + 1)).foldl (fun sum d => fadd32 sum (frame (t - M + d) ((M - d) * B + n))) fpZero

theorem overlapSum_zero (B : Nat) (frame : Nat → Nat → Word) (t n : Nat) :
    overlapSum B frame t 0 n = fadd32 0 (frame t n) := by
  simp [overlapSum, fpZero]

/-- The newest frame is added last, to the sum of the older ones one block further on. -/
theorem overlapSum_succ (B : Nat) (frame : Nat → Nat → Word) {t M : Nat} (hM : M ≤ t) (n : Nat) :
    overlapSum B frame (t + 1) (M + 1) n = fadd32 (overlapSum B frame t M (n + B)) (frame (t + 1) n) := by
  have holder : ∀ sum, ∀ d ∈ List.range (M + 1),
      fadd32 sum (frame (t + 1 - (M + 1) + d) ((M + 1 - d) * B + n)) =
        fadd32 sum (frame (t - M + d) ((M - d) * B + (n + B))) := by
    intro sum d hd
    have hplace : (M + 1 - d) * B + n = (M - d) * B + (n + B) := by
      rw [Nat.sub_add_comm (Nat.lt_succ_iff.1 (List.mem_range.1 hd))]
      ring
    rw [Nat.add_sub_add_right, hplace]
  have hlast : t - M + (M + 1) = t + 1 := by omega
  rw [overlapSum, List.range_succ, List.foldl_append, List.foldl_ext _ _ _ holder, ← overlapSum]
  simp [hlast]

/-- How many frames before `t` reach place `n` of frame `t`, when each has `N` samples. -/
def olderFrames (N B t n : Nat) : Nat := min t ((N - 1 - n) / B)

theorem olderFrames_le {N B n : Nat} (t : Nat) : olderFrames N B t n ≤ t := min_le_left _ _

theorem olderFrames_succ {N B n : Nat} (t : Nat) (hB : 0 < B) (hn : n + B < N) :
    olderFrames N B (t + 1) n = olderFrames N B t (n + B) + 1 := by
  have hdiv : (N - 1 - n) / B = (N - 1 - (n + B)) / B + 1 := by
    rw [← Nat.add_div_right _ hB]
    congr 1
    omega
  rw [olderFrames, hdiv, Nat.add_min_add_right, olderFrames]

/-- No older frame reaches the last block. -/
theorem olderFrames_newest {N B n : Nat} (t : Nat) (hB : 0 < B) (hn : N ≤ n + B) : olderFrames N B t n = 0 := by
  rw [olderFrames, Nat.div_eq_of_lt (by omega), Nat.min_zero]

/-- All the other K - 1 frames of the ring can reach the first block. -/
theorem olderFrames_first {N B j : Nat} (t : Nat) (hdvd : N % B = 0) (hle : B ≤ N) (hj : j < B) :
    olderFrames N B t j = min t (N / B - 1) := by
  obtain ⟨K, rfl⟩ := Nat.dvd_of_mod_eq_zero hdvd
  have hdiv : (B * K - 1 - j) / B = K - 1 := by
    rw [Nat.sub_sub, Nat.add_comm 1 j, Nat.mul_sub_div j B K (by omega), Nat.div_eq_of_lt hj]
  rw [olderFrames, hdiv, Nat.mul_div_cancel_left K (by omega)]

/-- If every ring word, with the sample of command `t` added, is an overlap sum, then so it is for command `t + 1`, which
finds the ring that command `t` left. -/
theorem overlapSum_of_carriedRing {s s' : State} (frame : Nat → Nat → Word) {t : Nat} (heven : s.transformLen % 2 = 0)
    (hB : 0 < s.blockLen) (hle : s.blockLen ≤ s.transformLen) (hcarry : s'.accBuf = (synthesizeBody s).accBuf)
    (hsum : ∀ n < s.transformLen, fadd32 (s.accWord n) (synthesisSample s n) =
      overlapSum s.blockLen frame t (olderFrames s.transformLen s.blockLen t n) n) :
    ∀ n < s.transformLen, fadd32 (s'.accWord n) (frame (t + 1) n) =
      overlapSum s.blockLen frame (t + 1) (olderFrames s.transformLen s.blockLen (t + 1) n) n := by
  intro n hn
  rw [State.accWord, hcarry, ← State.accWord]
  by_cases holder : n < s.transformLen - s.blockLen
  · rw [synthesizeBody_accWord_older heven hle holder, hsum _ (by omega), olderFrames_succ t hB (by omega),
      overlapSum_succ _ _ (olderFrames_le t)]
  · rw [synthesizeBody_accWord_newest hle (by omega) hn, olderFrames_newest _ hB (by omega), overlapSum_zero]

/-- Settles O39, by induction on the number of the command: each finds the ring holding the sums of the frames before it,
whatever became of their blocks. -/
theorem emittedBlockIsTheOverlapSum : Obligations.EmittedBlockIsTheOverlapSum := by
  intro N B s u T hrun hcarry hzero
  have hsum : ∀ t < T, ∀ n < N, fadd32 ((s t).accWord n) (synthesisSample (s t) n) =
      overlapSum B (fun i => synthesisSample (s i)) t (olderFrames N B t n) n := by
    intro t
    induction t with
    | zero =>
      intro _ n hn
      rw [hzero n hn, olderFrames, Nat.zero_min, overlapSum_zero]
    | succ t ih =>
      intro ht
      obtain ⟨hphase, hsize, rfl, rfl, hexec⟩ := hrun t (by omega)
      obtain ⟨-, -, heven, hB, hle, -⟩ := sizes_of_validSize hsize
      have hring : (s (t + 1)).accBuf = (synthesizeBody (s t)).accBuf := by
        rw [exec_synthesize_of_hook hphase, Host.Outcome.next.injEq] at hexec
        rw [hcarry t ht, hexec]
      exact overlapSum_of_carriedRing (fun i => synthesisSample (s i)) heven hB hle hring (ih (by omega))
  intro t ht hok j hj
  obtain ⟨hphase, hsize, rfl, rfl, hexec⟩ := hrun t ht
  obtain ⟨-, -, heven, -, hle, hdvd⟩ := sizes_of_validSize hsize
  rw [exec_synthesize_of_hook hphase, Host.Outcome.next.injEq] at hexec
  rw [← hexec, synthesizeBody_outWord_delivered heven hle hok hj, hsum t ht j (by omega),
    olderFrames_first t hdvd hle hj, overlapSum]

end Sys2Proof.Proofs.Synthesizer

/-! SUPPORT and PROOFS of the family 44_stage_control, the commands: the accepted sizes, NOP, CONFIGURE and ENABLE, who
reads the sample rate and who writes OUT_VALID, the pass-through, and UPDATE (spec/44_stage_control.md R84 to R91,
R98). -/

namespace Sys2Proof.Proofs.StageControl

open Sys2Proof.Machine Sys2Proof.Claims Sys2Proof.Proofs.CoreState Sys2Proof.Proofs.Encoding Sys2Proof.Proofs.Analyzer
  Sys2Proof.Proofs.Synthesizer

/-! ## The accepted sizes (R84) -/

theorem validSize_iff {n b : Word} :
    validSize n b = true ↔
      n.toNat ∈ supportedLengths ∧ 1 ≤ b.toNat ∧ b.toNat ≤ n.toNat ∧ n.toNat % b.toNat = 0 := by
  simp only [validSize, Bool.and_eq_true, List.contains_iff_mem, decide_eq_true_eq, and_assoc]

theorem mem_supportedLengths_iff_pow {n : Nat} : n ∈ supportedLengths ↔ ∃ m, 4 ≤ m ∧ m ≤ 12 ∧ n = 2 ^ m := by
  constructor
  · have hlog : ∀ n ∈ supportedLengths, 4 ≤ n.log2 ∧ n.log2 ≤ 12 ∧ n = 2 ^ n.log2 := by decide
    exact fun hn => ⟨_, hlog n hn⟩
  · rintro ⟨m, h4, h12, rfl⟩
    interval_cases m <;> decide

/-- The block sizes of a length `2^m` are its divisors, the powers of two up to it. -/
theorem blockSize_iff_pow {m b : Nat} :
    (1 ≤ b ∧ b ≤ 2 ^ m ∧ 2 ^ m % b = 0) ↔ ∃ j ≤ m, b = 2 ^ j := by
  rw [← Nat.dvd_prime_pow Nat.prime_two]
  constructor
  · rintro ⟨-, -, hmod⟩
    exact Nat.dvd_of_mod_eq_zero hmod
  · intro hdvd
    have hpos : 0 < 2 ^ m := Nat.two_pow_pos m
    exact ⟨Nat.pos_of_dvd_of_pos hdvd hpos, Nat.le_of_dvd hpos hdvd, Nat.mod_eq_zero_of_dvd hdvd⟩

/-- Settles O9: a supported length is a power of two, and so are its divisors and their quotients. -/
theorem validSizesArePowersOfTwo : Obligations.ValidSizesArePowersOfTwo := by
  intro n b
  refine ⟨by simp only [validSize_iff, supportedLengths, List.mem_cons, List.not_mem_nil, or_false], ?_⟩
  rw [validSize_iff, mem_supportedLengths_iff_pow]
  constructor
  · rintro ⟨⟨m, h4, h12, hn⟩, hb⟩
    rw [hn] at hb ⊢
    obtain ⟨j, hj, hb⟩ := blockSize_iff_pow.1 hb
    exact ⟨m, j, h4, h12, hj, rfl, hb, by rw [hb, Nat.pow_div hj two_pos]⟩
  · rintro ⟨m, j, h4, h12, hj, hn, hb, -⟩
    rw [hn]
    exact ⟨⟨m, h4, h12, rfl⟩, blockSize_iff_pow.2 ⟨j, hj, hb⟩⟩

/-! ## NOP, CONFIGURE and ENABLE (R85, R87, R88) -/

/-- No command but NOP has a word of opcode 0. -/
theorem encode_eq_zero_of_opcode : ∀ i ∈ legalCommands, fieldOpc (encode i) = 0x00 → encode i = 0x00000000 := by
  decide

/-- Settles O8: a word of opcode 0 that decodes is the encoding of a command, so the word of NOP. -/
theorem nopHasNoEffect : Obligations.NopHasNoEffect := by
  refine ⟨fun s => rfl, rfl, fun w hopc hne => Option.eq_none_iff_forall_ne_some.2 fun i hi => hne ?_⟩
  obtain ⟨hwf, rfl⟩ := decode_eq_some_iff.1 hi
  exact encode_eq_zero_of_opcode i (mem_legalCommands.2 hwf) hopc

/-- CONFIGURE in each state of the stage (R85). -/
theorem exec_configure (s : State) :
    exec .configure s =
      if s.phase = .hook then .next { s with err := .sequence }
      else if validSize s.reqN s.reqB then .next (applyConfiguration s)
      else .next (unconfigure s) := rfl

theorem exec_configure_of_valid {s : State} (hphase : s.phase = .idle) (hsize : validSize s.reqN s.reqB = true) :
    exec .configure s = .next (applyConfiguration s) := by
  simp [exec_configure, hphase, hsize]

theorem exec_configure_of_invalid {s : State} (hphase : s.phase = .idle) (hsize : validSize s.reqN s.reqB = false) :
    exec .configure s = .next (unconfigure s) := by
  simp [exec_configure, hphase, hsize]

theorem validSize_of_unsupported {n : Word} (b : Word) (h : n.toNat ∉ supportedLengths) : validSize n b = false :=
  Bool.eq_false_iff.2 fun hsize => h (validSize_iff.1 hsize).1

theorem applyConfiguration_eq (s : State) :
    applyConfiguration s = { s with
      cfgN := s.reqN, cfgB := s.reqB, cfgFs := s.reqFs, fwdKind := .hann, invKind := .rect
      outValid := false, drop := false, configured := true
      histBuf := (applyConfiguration s).histBuf, accBuf := (applyConfiguration s).accBuf
      specBuf := (applyConfiguration s).specBuf } := rfl

theorem unconfigure_errWord (s : State) : (unconfigure s).errWord = 1 := by
  have hword : 0#24 ++ ErrCode.toByte .sizeUnsupported = (1 : Word) := by decide
  exact hword

theorem applyConfiguration_winWord (s : State) : (applyConfiguration s).winWord = 0x00000001 := by
  have hword : 0#28 ++ fieldOfKind .rect ++ fieldOfKind .hann = (0x00000001 : Word) := by decide
  exact hword

/-- Settles O10: the three paths of the rule, the failing one for every unsupported length. -/
theorem configureFollowsItsRule : Obligations.ConfigureFollowsItsRule := by
  refine ⟨rfl, fun s => ⟨fun hphase => ?hook, fun hphase => exec_configure_of_invalid hphase,
    fun hphase hlen => ?unsupported, fun hphase hsize => ?success⟩⟩
  case hook => rw [exec_configure, if_pos hphase]
  case unsupported =>
    exact ⟨unconfigure s, exec_configure_of_invalid hphase (validSize_of_unsupported s.reqB hlen),
      unconfigure_errWord s, rfl, rfl⟩
  case success =>
    have hzero : ∀ i, Memory.zeroed.getWord i = 0 := Memory.getWord_zeroed
    exact ⟨applyConfiguration s, exec_configure_of_valid hphase hsize, applyConfiguration_eq s,
      applyConfiguration_winWord s, fun i _ => ⟨hzero i, hzero i⟩, fun i _ => hzero i⟩

/-- ENABLE in each phase (R88). -/
theorem exec_enable (en : Bool) (s : State) :
    exec (.enable en) s =
      if s.phase = .hook then .next { s with err := .sequence } else .next { s with enable := en } := rfl

/-- Settles O13: the two branches of the rule. -/
theorem enableFollowsItsRule : Obligations.EnableFollowsItsRule := by
  refine fun en => ⟨by cases en <;> decide, fun s => ⟨fun hphase => ?hook, fun hphase => ?idle⟩⟩
  case hook => rw [exec_enable, if_pos hphase]
  case idle => rw [exec_enable, if_neg (by simp [hphase])]

/-! ## The sample rate (R86) -/

section Rates

variable (req cfg : Word)

/-- Two outcomes that go on alike, up to the sample rate registers of the second. -/
def SameUpToRates (o o' : Host.Outcome State Fault Refusal) : Prop :=
  ∃ t, o = .next t ∧ o' = .next (withRates req cfg t)

variable {req cfg}

theorem sameUpToRates_next {t t' : State} (h : t' = withRates req cfg t) :
    SameUpToRates req cfg (.next t) (.next t') := ⟨t, rfl, congrArg _ h⟩

theorem sameUpToRates_raiseError (c : ErrCode) (s : State) :
    SameUpToRates req cfg (raiseError c s) (raiseError c (withRates req cfg s)) := sameUpToRates_next rfl

theorem sameUpToRates_ite {p : Prop} [Decidable p] {o₁ o₁' o₂ o₂' : Host.Outcome State Fault Refusal}
    (h₁ : SameUpToRates req cfg o₁ o₁') (h₂ : SameUpToRates req cfg o₂ o₂') :
    SameUpToRates req cfg (if p then o₁ else o₂) (if p then o₁' else o₂') := by
  split
  · exact h₁
  · exact h₂

variable (req cfg)

theorem selectWindow_withRates (dir : Dir) (k : WinKind) (s : State) :
    selectWindow dir k (withRates req cfg s) = withRates req cfg (selectWindow dir k s) := by
  cases dir <;> rfl

theorem analyzeBody_withRates (s : State) :
    analyzeBody (withRates req cfg s) = withRates req cfg (analyzeBody s) := by
  cases hactive : s.active
  · rw [analyzeBody_of_not_active hactive]; exact analyzeBody_of_not_active hactive
  · rw [analyzeBody_of_active hactive]; exact analyzeBody_of_active hactive

theorem emit_withRates (s : State) : emit (withRates req cfg s) = withRates req cfg (emit s) :=
  (apply_ite (withRates req cfg) (s.outAllocOk = true) (deliver s) (dropFrame s)).symm

theorem synthesizeBody_withRates (s : State) :
    synthesizeBody (withRates req cfg s) = withRates req cfg (synthesizeBody s) := by
  have hemit := emit_withRates req cfg (overlapAdd (transformInv (rebuildSpec s)))
  exact congrArg (fun u => { rotateAcc u with phase := .idle }) hemit

theorem closeIfOpen_withRates (s : State) :
    closeIfOpen (withRates req cfg s) = withRates req cfg (closeIfOpen s) := by
  rw [closeIfOpen, closeIfOpen, synthesizeBody_withRates]
  exact (apply_ite (withRates req cfg) (s.phase = .hook) (synthesizeBody s) s).symm

/-- No command but CONFIGURE reads a sample rate register, on any of its paths. -/
theorem exec_withRates {i : Instr} (hi : i ≠ .configure) (s : State) :
    SameUpToRates req cfg (exec i s) (exec i (withRates req cfg s)) := by
  cases i with
  | configure => exact absurd rfl hi
  | nop => exact sameUpToRates_next rfl
  | setWindow dir kind =>
    simp only [exec, execSetWindow]
    split
    · exact sameUpToRates_raiseError _ s
    · exact sameUpToRates_ite (sameUpToRates_raiseError _ s)
        (sameUpToRates_ite (sameUpToRates_next (selectWindow_withRates ..)) (sameUpToRates_raiseError _ s))
  | enable en => exact sameUpToRates_ite (sameUpToRates_raiseError _ s) (sameUpToRates_next rfl)
  | analyze =>
    exact sameUpToRates_ite (sameUpToRates_raiseError _ s) (sameUpToRates_next (analyzeBody_withRates ..))
  | synthesize =>
    exact sameUpToRates_ite (sameUpToRates_raiseError _ s) (sameUpToRates_next (synthesizeBody_withRates ..))
  | update =>
    refine sameUpToRates_ite (sameUpToRates_raiseError _ s) (sameUpToRates_next ?_)
    rw [analyzeBody_withRates, closeIfOpen_withRates]
  | rebuild | xformFwd | xformInv =>
    exact sameUpToRates_ite (sameUpToRates_next rfl) (sameUpToRates_raiseError _ s)

end Rates

/-- Settles O17: the registers pass through every command but CONFIGURE, which overwrites CFG_FS only on success. -/
theorem onlyConfigureReadsTheSampleRate : Obligations.OnlyConfigureReadsTheSampleRate := by
  intro i s req cfg
  refine ⟨fun hi => exec_withRates req cfg hi s, ?configure⟩
  by_cases hphase : s.phase = .hook
  · rw [if_neg (by simp [hphase])]
    exact ⟨{ s with err := .sequence }, by rw [exec_configure, if_pos hphase], if_pos hphase⟩
  · have hidle := phase_idle_of_ne_hook hphase
    cases hsize : validSize s.reqN s.reqB
    · rw [if_neg (by simp)]
      exact ⟨unconfigure s, exec_configure_of_invalid hidle hsize,
        exec_configure_of_invalid (s := withRates req cfg s) hidle hsize⟩
    · rw [if_pos ⟨hidle, rfl⟩]
      exact ⟨applyConfiguration s, exec_configure_of_valid hidle hsize,
        exec_configure_of_valid (s := withRates req cfg s) hidle hsize⟩

/-! ## OUT_VALID (R91) -/

theorem synthesizeBody_outValid (s : State) : (synthesizeBody s).outValid = s.outAllocOk := by
  rw [synthesizeBody_registers]

/-- Settles O19: what each effect of a command writes into OUT_VALID. -/
theorem outValidChangesOnlyByItsWriters : Obligations.OutValidChangesOnlyByItsWriters := by
  intro i s t h hne
  cases exec_effect h with
  | configure => exact .inl ⟨rfl, rfl⟩
  | openCycle _ hactive => exact .inr (.inl ⟨rfl, by rw [hactive]; rfl⟩)
  | closeCycle => exact .inr (.inr (.inl ⟨rfl, synthesizeBody_outValid s⟩))
  | fullCycle _ hactive =>
    have hok : (openCycle s).outAllocOk = s.outAllocOk := by rw [openCycle_eq]
    exact .inr (.inr (.inr ⟨rfl, by rw [synthesizeBody_outValid, hok, hactive]; rfl⟩))
  | passThrough hi _ hactive =>
    rw [analyzeBody_of_not_active hactive, hactive]
    obtain rfl | rfl := hi
    · exact .inr (.inl ⟨rfl, rfl⟩)
    · exact .inr (.inr (.inr ⟨rfl, rfl⟩))
  | setWindow dir => cases dir <;> exact absurd rfl hne
  | nothing | error | unconfigure | enable | rebuild | xformFwd | xformInv => exact absurd rfl hne

/-! ## The cycle (R89, R90, R98) -/

theorem exec_update_of_hook {s : State} (hphase : s.phase = .hook) :
    exec .update s = .next { s with err := .sequence } := if_pos hphase

theorem exec_update_of_idle {s : State} (hphase : s.phase = .idle) :
    exec .update s = .next (closeIfOpen (analyzeBody s)) := if_neg (by simp [hphase])

/-- The pass-through opens no cycle, so UPDATE has nothing to close. -/
theorem exec_update_of_not_active {s : State} (hphase : s.phase = .idle) (hactive : s.active = false) :
    exec .update s = exec .analyze s := by
  rw [exec_update_of_idle hphase, exec_analyze_of_not_active hphase hactive, analyzeBody_of_not_active hactive,
    closeIfOpen, if_neg (by simp [hphase])]

theorem exec_update_of_active {s : State} (hphase : s.phase = .idle) (hactive : s.active = true) :
    exec .update s = .next (synthesizeBody (openCycle s)) := by
  rw [exec_update_of_idle hphase, analyzeBody_of_active hactive, closeIfOpen, if_pos (openCycle_phase s)]

/-- An inactive core is outside the hook window (R92). -/
theorem phase_idle_of_inactive {s : State} (hopen : s.phaseOk) (hinactive : s.configured = false ∨ s.enable = false) :
    s.phase = .idle := by
  refine phase_idle_of_ne_hook fun hphase => ?_
  obtain ⟨hconf, hen⟩ := hopen hphase
  simp [hconf, hen] at hinactive

/-- Settles O36: such a core is idle, where both commands are the pass-through. -/
theorem inactiveCyclePassesThrough : Obligations.InactiveCyclePassesThrough := by
  intro i s hi hopen hinactive
  have hphase := phase_idle_of_inactive hopen hinactive
  have hactive := active_eq_false hinactive
  have hexec : exec i s = exec .analyze s := by
    obtain rfl | rfl := hi
    · rfl
    · exact exec_update_of_not_active hphase hactive
  exact ⟨_, hexec.trans (exec_analyze_of_not_active hphase hactive), rfl, fun n _ => rfl⟩

/-- Settles O40: an active UPDATE runs both bodies, any other one only the pass-through. -/
theorem updateIsAnalyzeThenSynthesize : Obligations.UpdateIsAnalyzeThenSynthesize := by
  refine ⟨rfl, fun s => ⟨exec_update_of_hook, fun hphase =>
    ⟨exec_update_of_not_active hphase, fun hactive => ?composed, ?idle⟩⟩⟩
  case composed =>
    exact ⟨openCycle s, exec_analyze_of_active hphase hactive, openCycle_phase s,
      (exec_update_of_active hphase hactive).trans (exec_synthesize_of_hook (openCycle_phase s)).symm⟩
  case idle =>
    cases hactive : s.active
    · exact ⟨_, (exec_update_of_not_active hphase hactive).trans (exec_analyze_of_not_active hphase hactive), hphase⟩
    · exact ⟨_, exec_update_of_active hphase hactive, synthesizeBody_phase _⟩

end Sys2Proof.Proofs.StageControl

/-! SUPPORT and PROOFS of the family 44_stage_control, the overlap gains: the cosines of the Hann coefficients sum to zero
over the frames that overlap a sample, which gives the table of R95 in exact arithmetic. -/

namespace Sys2Proof.Proofs.OverlapGain

open Sys2Proof.Machine Sys2Proof.Claims Sys2Proof.Proofs.ExactDft

/-! ## Sums of equally spaced cosines -/

/-- The angle of the Hann coefficient at place `j` of block `m` of a frame of `K` blocks of `B` samples. -/
noncomputable def frameAngle (B K j m : Nat) : ℝ := 2 * Real.pi * (((m * B + j : Nat) : ℝ) / ((K * B : Nat) : ℝ))

theorem exactHann_eq_frameAngle (B K j m : Nat) :
    exactHann (K * B) (m * B + j) = 1 / 2 * (1 - Real.cos (frameAngle B K j m)) := rfl

/-- From block to block the angle grows by a K-th of a turn. -/
theorem frameAngle_eq {B K : Nat} (hB : 0 < B) (j m : Nat) :
    frameAngle B K j m = 2 * Real.pi * (m / K) + frameAngle B K j 0 := by
  have hB' : (B : ℝ) ≠ 0 := Nat.cast_ne_zero.2 hB.ne'
  rw [frameAngle, frameAngle]
  push_cast
  rw [add_div, mul_div_mul_right _ _ hB']
  ring

/-- Cosines that go evenly around `q` whole turns in `K` steps cancel, unless a step is a whole number of turns. -/
theorem sum_cos_eq_zero {B K q : Nat} (hB : 0 < B) (hq : 0 < q) (hqK : q < K) (j : Nat) :
    ∑ m ∈ Finset.range K, Real.cos (q * frameAngle B K j m) = 0 := by
  have hroot : ∑ m ∈ Finset.range K, rootOfUnity .inverse K ^ (q * m) = 0 := by
    have hω := rootOfUnity_isPrimitiveRoot .inverse (hq.trans hqK)
    have horth := sum_pow_mul_pow hω (inv_mul_cancel₀ (hω.ne_zero (hq.trans hqK).ne')) hqK (hq.trans hqK)
    simpa [hq.ne] using horth
  have hterm : ∀ m, Real.cos (q * frameAngle B K j m) =
      (Complex.exp ((q * frameAngle B K j 0 : ℝ) * Complex.I) * rootOfUnity .inverse K ^ (q * m)).re := fun m => by
    rw [← twiddle_eq_pow, twiddle, ← Complex.exp_add, ← Complex.exp_ofReal_mul_I_re, frameAngle_eq hB]
    push_cast
    ring_nf
  calc ∑ m ∈ Finset.range K, Real.cos (q * frameAngle B K j m)
    _ = (Complex.exp ((q * frameAngle B K j 0 : ℝ) * Complex.I) *
          ∑ m ∈ Finset.range K, rootOfUnity .inverse K ^ (q * m)).re := by
        rw [Finset.mul_sum, Complex.re_sum]
        exact Finset.sum_congr rfl fun m _ => hterm m
    _ = 0 := by rw [hroot, mul_zero, Complex.zero_re]

/-! ## The table of gains (R95) -/

/-- The gain is symmetric in the two window kinds. -/
theorem overlapGain_comm (kind kind' : WinKind) (B K j : Nat) :
    overlapGain kind kind' B K j = overlapGain kind' kind B K j :=
  Finset.sum_congr rfl fun _ _ => mul_comm _ _

theorem overlapGain_rect_rect (B K j : Nat) : overlapGain .rect .rect B K j = K := by
  simp [overlapGain, exactCoeff]

/-- With one frame the gain is the product of the two windows. -/
theorem overlapGain_one (kind kind' : WinKind) (B j : Nat) :
    overlapGain kind kind' B 1 j = exactCoeff kind B j * exactCoeff kind' B j := by
  simp [overlapGain]

theorem overlapGain_hann_rect {B K : Nat} (hB : 0 < B) (hK : 2 ≤ K) (j : Nat) :
    overlapGain .hann .rect B K j = (K : ℝ) / 2 := by
  have hcancel := sum_cos_eq_zero hB one_pos (show 1 < K by omega) j
  simp only [Nat.cast_one, one_mul] at hcancel
  calc overlapGain .hann .rect B K j
    _ = ∑ m ∈ Finset.range K, 1 / 2 * (1 - Real.cos (frameAngle B K j m)) := by
        simp only [overlapGain, exactCoeff, mul_one, exactHann_eq_frameAngle]
    _ = 1 / 2 * (K - ∑ m ∈ Finset.range K, Real.cos (frameAngle B K j m)) := by
        rw [← Finset.mul_sum, Finset.sum_sub_distrib]; simp
    _ = (K : ℝ) / 2 := by rw [hcancel]; ring

/-- The square of a Hann coefficient in terms of its angle and of twice the angle. -/
theorem exactHann_sq (B K j m : Nat) :
    exactHann (K * B) (m * B + j) * exactHann (K * B) (m * B + j) =
      3 / 8 - 1 / 2 * Real.cos (frameAngle B K j m) + 1 / 8 * Real.cos (2 * frameAngle B K j m) := by
  rw [exactHann_eq_frameAngle, Real.cos_two_mul]
  ring

theorem overlapGain_hann_hann {B K : Nat} (hB : 0 < B) (hK : 3 ≤ K) (j : Nat) :
    overlapGain .hann .hann B K j = 3 * (K : ℝ) / 8 := by
  have hcancel := sum_cos_eq_zero hB one_pos (show 1 < K by omega) j
  have hcancel2 := sum_cos_eq_zero hB two_pos (show 2 < K by omega) j
  simp only [Nat.cast_one, one_mul, Nat.cast_ofNat] at hcancel hcancel2
  calc overlapGain .hann .hann B K j
    _ = ∑ m ∈ Finset.range K, (3 / 8 - 1 / 2 * Real.cos (frameAngle B K j m) +
          1 / 8 * Real.cos (2 * frameAngle B K j m)) := by
        simp only [overlapGain, exactCoeff, exactHann_sq]
    _ = 3 / 8 * K - 1 / 2 * ∑ m ∈ Finset.range K, Real.cos (frameAngle B K j m) +
          1 / 8 * ∑ m ∈ Finset.range K, Real.cos (2 * frameAngle B K j m) := by
        rw [Finset.sum_add_distrib, Finset.sum_sub_distrib, ← Finset.mul_sum, ← Finset.mul_sum]; simp; ring
    _ = 3 * (K : ℝ) / 8 := by rw [hcancel, hcancel2]; ring

/-- Two frames, half a turn apart: the cosines cancel and their squares add up. -/
theorem overlapGain_hann_hann_two {B : Nat} (hB : 0 < B) (j : Nat) :
    overlapGain .hann .hann B 2 j = (1 + Real.cos (2 * Real.pi * ((j : ℝ) / ((2 * B : Nat) : ℝ))) ^ 2) / 2 := by
  have hangle : 2 * Real.pi * ((j : ℝ) / ((2 * B : Nat) : ℝ)) = frameAngle B 2 j 0 := by simp [frameAngle]
  have hhalf : frameAngle B 2 j 1 = frameAngle B 2 j 0 + Real.pi := by rw [frameAngle_eq hB]; push_cast; ring
  rw [hangle]
  simp only [overlapGain, exactCoeff, Finset.sum_range_succ, Finset.sum_range_zero, exactHann_eq_frameAngle, hhalf,
    Real.cos_add_pi]
  ring

/-! ## Which pairs are COLA (R95) -/

theorem isCola_of_const {kind kind' : WinKind} {B K : Nat} {g : ℝ} (h : ∀ j, overlapGain kind kind' B K j = g) :
    IsCola kind kind' B K := fun j _ j' _ => (h j).trans (h j').symm

/-- A pair whose gains at the first two places differ is not COLA. -/
theorem not_isCola_of_ne {kind kind' : WinKind} {B K : Nat} (hB : 2 ≤ B)
    (h : overlapGain kind kind' B K 0 ≠ overlapGain kind kind' B K 1) : ¬ IsCola kind kind' B K :=
  fun hcola => h (hcola 0 (by omega) 1 (by omega))

/-- One place into a block of two samples or more is no whole number of half turns. -/
theorem sin_pi_div_pos {B : Nat} (hB : 2 ≤ B) : 0 < Real.sin (Real.pi * (1 / B)) := by
  have hB' : (2 : ℝ) ≤ B := by exact_mod_cast hB
  refine Real.sin_pos_of_pos_of_lt_pi (by positivity) ?_
  have hlt : (1 : ℝ) / B < 1 := by rw [div_lt_one (by linarith)]; linarith
  nlinarith [Real.pi_pos]

theorem exactHann_zero (N : Nat) : exactHann N 0 = 0 := by simp [exactHann]

theorem exactHann_one_pos {B : Nat} (hB : 2 ≤ B) : 0 < exactHann B 1 := by
  have hsin := sin_pi_div_pos hB
  have hsq : exactHann B 1 = Real.sin (Real.pi * (1 / B)) ^ 2 := by
    rw [exactHann, Nat.cast_one, mul_assoc, Real.cos_two_mul, Real.sin_sq]; ring
  rw [hsq]
  positivity

theorem exactCoeff_one_pos (kind : WinKind) {B : Nat} (hB : 2 ≤ B) : 0 < exactCoeff kind B 1 := by
  cases kind
  · exact one_pos
  · exact exactHann_one_pos hB

/-- A single Hann frame fades in from zero, whatever the other window. -/
theorem not_isCola_hann_one (kind : WinKind) {B : Nat} (hB : 2 ≤ B) : ¬ IsCola .hann kind B 1 := by
  refine not_isCola_of_ne hB ?_
  have hzero : exactCoeff .hann B 0 = 0 := exactHann_zero B
  rw [overlapGain_one, overlapGain_one, hzero, zero_mul]
  exact (mul_pos (exactCoeff_one_pos .hann hB) (exactCoeff_one_pos kind hB)).ne

theorem not_isCola_hann_hann_two {B : Nat} (hB : 2 ≤ B) : ¬ IsCola .hann .hann B 2 := by
  refine not_isCola_of_ne hB fun heq => ?_
  have hangle : 2 * Real.pi * (((1 : Nat) : ℝ) / ((2 * B : Nat) : ℝ)) = Real.pi * (1 / B) := by
    push_cast; field_simp
  have hsin := sin_pi_div_pos hB
  rw [overlapGain_hann_hann_two (by omega), overlapGain_hann_hann_two (by omega), hangle, Nat.cast_zero, zero_div,
    mul_zero, Real.cos_zero, Real.cos_sq'] at heq
  linarith [pow_pos hsin 2]

/-- Settles O29: the cosines of the coefficients cancel over K frames, and so do those of twice the angles for K >= 3;
the pairs that are not COLA differ at the first two places. -/
theorem exactOverlapGains : Obligations.ExactOverlapGains := by
  intro B K hB
  refine ⟨fun j _ => ⟨?hannRectOne, ?rectHannOne, ?hannHannOne, overlapGain_hann_hann_two hB j,
      overlapGain_rect_rect B K j, fun hK => ⟨overlapGain_hann_rect hB hK j, ?rectHann⟩,
      fun hK => overlapGain_hann_hann hB hK j⟩,
    fun hK => isCola_of_const (overlapGain_hann_rect hB hK), fun hK => isCola_of_const (overlapGain_hann_hann hB hK),
    fun hB2 => ⟨not_isCola_hann_one .rect hB2, not_isCola_hann_one .hann hB2, not_isCola_hann_hann_two hB2⟩⟩
  case hannRectOne => rw [overlapGain_one, exactCoeff, exactCoeff, mul_one]
  case rectHannOne => rw [overlapGain_one, exactCoeff, exactCoeff, one_mul]
  case hannHannOne => rw [overlapGain_one, exactCoeff, sq]
  case rectHann => rw [overlapGain_comm, overlapGain_hann_rect hB hK]

end Sys2Proof.Proofs.OverlapGain

/-! SUPPORT and PROOFS of the family 60_exceptions: the code that each command reports, in the order of the checks, and
the word that is no command (spec/60_exceptions.md R100 to R104). -/

namespace Sys2Proof.Proofs.Exceptions

open Sys2Proof.Machine Sys2Proof.Claims Sys2Proof.Proofs.CoreState Sys2Proof.Proofs.Transform Sys2Proof.Proofs.Analyzer
  Sys2Proof.Proofs.StageControl

/-! ## Illegal words (R102) -/

/-- Settles O5: the core's turn with a word in progress that decodes to BAD. -/
theorem illegalWordOnlyRecordsBadCommand : Obligations.IllegalWordOnlyRecordsBadCommand := by
  intro s hbusy hturn hd
  rw [step_of_core hturn]
  exact coreTurn_of_none hbusy hd

/-! ## The code a command reports (R100, R101, R104) -/

/-- The outcome `o` of command `i` in state `s` goes on and reports `r`. Only ANALYZE and UPDATE have an effect beside
a reported NOT_CONFIGURED, the pass-through (R89). -/
def Reports (i : Instr) (s : State) (o : Host.Outcome State Fault Refusal) (r : Option ErrCode) : Prop :=
  ∃ t, o = .next t ∧ t.err = r.getD s.err ∧
    (r = some .sequence → t = { s with err := .sequence }) ∧
    (r = some .notConfigured → i ≠ .analyze → i ≠ .update → t = { s with err := .notConfigured })

section Outcomes

variable {i : Instr} {s t : State}

theorem reports_raiseError (c : ErrCode) : Reports i s (raiseError c s) (some c) :=
  ⟨record c s, rfl, rfl, by rintro ⟨⟩; rfl, by rintro ⟨⟩ - -; rfl⟩

theorem reports_none (h : t.err = s.err) : Reports i s (.next t) none := ⟨t, rfl, h, nofun, nofun⟩

/-- The codes that a command may report beside an effect. -/
theorem reports_recorded {c : ErrCode} (h : t.err = c) (hseq : c ≠ .sequence)
    (hconf : c = .notConfigured → i = .analyze ∨ i = .update) : Reports i s (.next t) (some c) := by
  refine ⟨t, rfl, h, fun hc => absurd (Option.some.inj hc) hseq, fun hc hanalyze hupdate => ?_⟩
  exact ((hconf (Option.some.inj hc)).elim hanalyze hupdate).elim

/-- A check of the command and the same check of the table. -/
theorem reports_ite {p : Prop} [Decidable p] {o o' : Host.Outcome State Fault Refusal} {r r' : Option ErrCode}
    (h : p → Reports i s o r) (h' : ¬ p → Reports i s o' r') :
    Reports i s (if p then o else o') (if p then r else r') := by
  split
  · next hp => exact h hp
  · next hp => exact h' hp

end Outcomes

theorem selectWindow_err (dir : Dir) (k : WinKind) (s : State) : (selectWindow dir k s).err = s.err := by
  cases dir <;> rfl

@[simp] theorem openCycle_err (s : State) : (openCycle s).err = s.err := by simp [openCycle]

@[simp] theorem openCycle_outAllocOk (s : State) : (openCycle s).outAllocOk = s.outAllocOk := by simp [openCycle]

theorem configured_and_enable_of_active {s : State} (h : s.active = true) : s.configured = true ∧ s.enable = true :=
  Bool.and_eq_true_iff.1 h

theorem analyzeBody_err (s : State) :
    (analyzeBody s).err = if s.configured then s.err else .notConfigured := by
  cases hactive : s.active
  · rw [analyzeBody_of_not_active hactive]
  · obtain ⟨hconf, -⟩ := configured_and_enable_of_active hactive
    rw [analyzeBody_of_active hactive, openCycle_err, hconf, if_pos rfl]

/-- UPDATE past its phase check takes the code of its first half when unconfigured, and that of the emission when
active (R90). -/
theorem closeIfOpen_analyzeBody_err {s : State} (hphase : s.phase ≠ .hook) :
    (closeIfOpen (analyzeBody s)).err =
      if s.configured = false then .notConfigured
      else if s.enable = true ∧ s.outAllocOk = false then .allocationFailure else s.err := by
  cases hactive : s.active
  · have hclosed : closeIfOpen (analyzeBody s) = analyzeBody s :=
      if_neg (by rwa [analyzeBody_of_not_active hactive])
    rw [hclosed, analyzeBody_err]
    cases hconf : s.configured
    · rfl
    · have hen : s.enable = false := by simpa [State.active, hconf] using hactive
      simp [hen]
  · obtain ⟨hconf, hen⟩ := configured_and_enable_of_active hactive
    have hopened : closeIfOpen (analyzeBody s) = synthesizeBody (openCycle s) := by
      rw [analyzeBody_of_active hactive, closeIfOpen, if_pos (openCycle_phase s)]
    rw [hopened, synthesizeBody_err]
    cases hok : s.outAllocOk <;> simp [hconf, hen, hok]

/-- Each command makes the checks of the table, in the table's order. -/
theorem exec_reports {i : Instr} (hwf : i.wellFormed = true) (s : State) :
    Reports i s (exec i s) (reportedError i s) := by
  cases i with
  | nop => exact reports_none rfl
  | configure =>
    exact reports_ite (fun _ => reports_raiseError _) fun _ =>
      reports_ite (fun _ => reports_none rfl) fun _ => reports_recorded rfl nofun nofun
  | setWindow dir kind =>
    obtain ⟨k, hk, -⟩ := kindOfField_of_lt (of_decide_eq_true hwf)
    rw [exec_setWindow hk]
    exact reports_ite (fun _ => reports_raiseError _) fun _ =>
      reports_ite (fun _ => reports_none (selectWindow_err dir k s)) fun _ => reports_raiseError _
  | enable en => exact reports_ite (fun _ => reports_raiseError _) fun _ => reports_none rfl
  | analyze =>
    refine reports_ite (fun _ => reports_raiseError _) fun _ => ?_
    have herr := analyzeBody_err s
    split
    · next hconf => exact reports_none (by rw [herr, if_pos hconf])
    · next hconf => exact reports_recorded (by rw [herr, if_neg hconf]) nofun fun _ => .inl rfl
  | synthesize =>
    refine reports_ite (fun _ => reports_raiseError _) fun _ => ?_
    have herr := synthesizeBody_err s
    split
    · next hok => exact reports_none (by rw [herr, if_pos hok])
    · next hok => exact reports_recorded (by rw [herr, if_neg hok]) nofun nofun
  | update =>
    refine reports_ite (fun _ => reports_raiseError _) fun hphase => ?_
    have herr := closeIfOpen_analyzeBody_err hphase
    split
    · next hconf => exact reports_recorded (by rw [herr, if_pos hconf]) nofun fun _ => .inr rfl
    · next hconf =>
      rw [if_neg hconf] at herr
      split
      · next hdrop => exact reports_recorded (by rw [herr, if_pos hdrop]) nofun nofun
      · next hdrop => exact reports_none (by rw [herr, if_neg hdrop])
  | rebuild => exact reports_ite (fun _ => reports_none (rebuildSpec_err s)) fun _ => reports_raiseError _
  | xformFwd => exact reports_ite (fun _ => reports_none (transformFwd_err s)) fun _ => reports_raiseError _
  | xformInv => exact reports_ite (fun _ => reports_none (transformInv_err s)) fun _ => reports_raiseError _

/-- Settles O14: the statement is what `Reports` says of the command and its row of the table. -/
theorem errorsFollowTheCodeTable : Obligations.ErrorsFollowTheCodeTable := fun _ s hwf => exec_reports hwf s

end Sys2Proof.Proofs.Exceptions

/-! SUPPORT and PROOFS of the family 70_reset_and_hazards: the reset values, what the reset input and the accesses made
in reset do, and the accesses of a busy core (spec/70_reset_and_hazards.md R114, R115, R117). -/

namespace Sys2Proof.Proofs.ResetAndHazards

open Sys2Proof.Machine Sys2Proof.Claims Sys2Proof.Proofs.CoreState Sys2Proof.Proofs.MemoryMap

/-! ## The reset values (R114) -/

theorem reset_statusWord : State.reset.statusWord = 0x00000004 := rfl

theorem reset_winWord : State.reset.winWord = 0x00000001 := rfl

theorem reset_errWord : State.reset.errWord = 0x00000000 := rfl

/-- Settles O48: the computed registers of the state after reset, and its fields. -/
theorem resetValuesOfTheRegisters : Obligations.ResetValuesOfTheRegisters :=
  ⟨reset_statusWord, reset_errWord, rfl, rfl, rfl, rfl, rfl, rfl, reset_winWord, rfl, rfl, rfl⟩

/-! ## The reset input (R114, R115) -/

theorem step_assertReset {s : State} {rest : List Event} (h : s.agenda = .resetInput true :: rest) :
    step s = .next { s with agenda := rest, inReset := true, busy := false, command := 0 } := by
  rw [step_of_cons h]
  rfl

theorem step_releaseReset {s : State} {rest : List Event} (h : s.agenda = .resetInput false :: rest)
    (hreset : s.inReset = true) : step s = .next (resetCore { s with agenda := rest }) := by
  simp [step_of_cons h, takeEvent, driveReset, hreset]

/-- A released core differs from the state after reset in its buffers, which are unspecified, and in what is not the
core's: the environment input and the model's own fields. -/
theorem resetCore_eq_reset (s : State) :
    ∃ spec inp out hist acc, resetCore s = { State.reset with
      agenda := s.agenda, response := s.response, outAllocOk := s.outAllocOk, freeCount := s.freeCount + 1
      specBuf := spec, inBuf := inp, outBuf := out, histBuf := hist, accBuf := acc } := ⟨_, _, _, _, _, rfl⟩

/-! ## An access at an offset of the window -/

section Accesses

variable {s : State} {off size : Nat} {v : Word} {rest : List Event}

theorem step_hostRead (h : s.agenda = .host (.read (Config.base + off) size) :: rest) (hoff : off < 0x18000) :
    step s = readOffset off size { s with agenda := rest } := by
  rw [step_of_cons h, takeEvent, hostAccess, windowOffset_base hoff]

theorem step_hostWrite (h : s.agenda = .host (.write (Config.base + off) size v) :: rest) (hoff : off < 0x18000) :
    step s = writeOffset off size v { s with agenda := rest } := by
  rw [step_of_cons h, takeEvent, hostAccess, windowOffset_base hoff]

end Accesses

/-! ## Accesses in reset (R114) -/

theorem readOffset_of_inReset {s : State} {off size : Nat} (hreset : s.inReset = true) :
    readOffset off size s = .next (respond (.data s.freeDatum) (drawFree s)) := if_pos hreset

theorem writeOffset_of_inReset {s : State} {off size : Nat} (v : Word) (hreset : s.inReset = true) :
    writeOffset off size v s = .next (respond .written s) := if_pos hreset

/-- An access of the window in reset is only answered. -/
theorem step_access_of_inReset {s : State} {a : Access} {rest : List Event} (h : s.agenda = .host a :: rest)
    (hreset : s.inReset = true) (hwindow : InWindow (addressOf a)) :
    ∃ r n, step s = .next { s with agenda := rest, response := r, freeCount := n } := by
  obtain ⟨off, hoff, hat⟩ := exists_offset_of_inWindow hwindow
  cases a with
  | read address size =>
    obtain rfl : address = Config.base + off := hat
    refine ⟨.data s.freeDatum, s.freeCount + 1, ?_⟩
    rw [step_hostRead h hoff]
    exact readOffset_of_inReset hreset
  | write address size v =>
    obtain rfl : address = Config.base + off := hat
    refine ⟨.written, s.freeCount, ?_⟩
    rw [step_hostWrite h hoff]
    exact writeOffset_of_inReset v hreset

/-- Settles O47: an edge of the reset input clears BUSY or resets the core, and between the edges accesses of the window
are only answered. -/
theorem resetFollowsItsRule : Obligations.ResetFollowsItsRule := by
  refine ⟨fun s rest h => step_assertReset h, fun s a rest h hreset => ⟨fun hout => ?outside, fun hin => ?inside⟩,
    fun s rest h hreset => ?released⟩
  case outside => rw [step_of_cons h]; exact hostAccess_of_not_inWindow hout _
  case inside =>
    obtain ⟨r, n, hstep⟩ := step_access_of_inReset h hreset hin
    exact ⟨_, hstep, rfl⟩
  case released =>
    have hstep := step_releaseReset h hreset
    obtain ⟨spec, inp, out, hist, acc, hrelease⟩ := resetCore_eq_reset { s with agenda := rest }
    rw [hrelease] at hstep
    exact ⟨_, hstep, rfl, reset_statusWord, reset_winWord, reset_errWord, rfl⟩

/-! ## Accesses while busy (R117) -/

/-- The read of STATUS is answered as on an idle core. -/
theorem readOffset_status {s : State} (hreset : s.inReset = false) :
    readOffset 4 4 s = .next (respond (.data s.statusWord) s) := by
  have hacc : accepted 4 4 = true := rfl
  have hstatus : readLocation (locate 4) s = s.statusWord := rfl
  simp [readOffset, hreset, hacc, hstatus]

theorem readOffset_of_busy {s : State} {off size : Nat} (hreset : s.inReset = false) (hbusy : s.busy = true)
    (hother : off ≠ 4 ∨ size ≠ 4) : readOffset off size s = .refused .busyAccess := by
  have hundefined : (accepted off size && off == 4) = false := by
    rcases hother with hoff | hsize
    · simp [hoff]
    · simp [accepted_eq_false (.inl hsize)]
  simp [readOffset, hreset, hbusy, hundefined]

theorem writeOffset_of_busy {s : State} {off size : Nat} (v : Word) (hreset : s.inReset = false)
    (hbusy : s.busy = true) : writeOffset off size v s = .refused .busyAccess := by
  simp [writeOffset, hreset, hbusy]

/-- Settles O45: the three accesses at their offsets; bit 0 of STATUS is BUSY. -/
theorem busyAllowsOnlyStatusReads : Obligations.BusyAllowsOnlyStatusReads := by
  intro s off size v rest hreset hbusy hoff
  refine ⟨fun hread => ⟨?status, ?busyBit⟩, fun hread hother => ?read, fun hwrite => ?write⟩
  case status => rw [step_hostRead hread (by decide)]; exact readOffset_status hreset
  case busyBit =>
    obtain ⟨hbit, -⟩ := statusWord_bits s
    rw [hbit, hbusy]
  case read => rw [step_hostRead hread hoff]; exact readOffset_of_busy hreset hbusy hother
  case write => rw [step_hostWrite hwrite hoff]; exact writeOffset_of_busy v hreset hbusy

end Sys2Proof.Proofs.ResetAndHazards

/-! SUPPORT and PROOFS of the reserved KINDs: what the SET_WINDOW term that no word decodes to does
(spec/30_encoding.md R51, R55, spec/40_transform.md R70; log entry 16). -/

namespace Sys2Proof.Proofs.ReservedKind

open Sys2Proof.Machine

/-- Only KIND restricts which SET_WINDOW terms have an encoding (R55). -/
theorem wellFormed_setWindow_iff {dir : Dir} {kind : BitVec 2} :
    Instr.wellFormed (.setWindow dir kind) = true ↔ kind.toNat < 2 := decide_eq_true_iff

/-- The reserved KINDs name no window kind (R51). -/
theorem kindOfField_of_reserved {kind : BitVec 2} (hkind : 2 ≤ kind.toNat) : kindOfField kind = none := by
  have hzero : kind ≠ 0 := by bv_omega
  have hone : kind ≠ 1 := by bv_omega
  rw [kindOfField, if_neg hzero, if_neg hone]

/-- A KIND that names no window kind is reported before the stage's state is looked at. -/
theorem exec_setWindow_of_none {dir : Dir} {kind : BitVec 2} (hk : kindOfField kind = none) (s : State) :
    exec (.setWindow dir kind) s = .next { s with err := .badCommand } := by
  simp only [exec, execSetWindow, hk, raiseError, record]

/-- Settles O12: KINDs 2 and 3 are outside the range with an encoding, and name no window kind. -/
theorem reservedKindIsBadCommand : Obligations.ReservedKindIsBadCommand := by
  intro dir kind s hkind
  have hill : ¬ Instr.wellFormed (.setWindow dir kind) = true := mt wellFormed_setWindow_iff.1 (not_lt.2 hkind)
  exact ⟨Bool.eq_false_iff.2 hill, exec_setWindow_of_none (kindOfField_of_reserved hkind) s⟩

end Sys2Proof.Proofs.ReservedKind
